-- ==== Sys2Proof/Word.lean ====
section
/-! DEFINITION. The word types of the block (00_scope.md R10): bytes, 16-bit addresses and words, ports, and the 40-bit transaction word (30_encoding.md R70). -/

namespace Sys2Proof

/-- A byte, 8 bits, unsigned (R10). -/
abbrev Byte := BitVec 8

/-- A memory address, 16 bits (R10, R50). -/
abbrev Addr := BitVec 16

/-- A 16-bit data word (R59). -/
abbrev Word := BitVec 16

/-- A port number, 8 bits (R53). -/
abbrev Port := BitVec 8

/-- A transaction word, 40 bits (R70, R73). -/
abbrev TxWord := BitVec 40

end Sys2Proof
end

