-- ==== Sys2Proof/Syntax.lean ====
section
/-! DEFINITION. The instructions of the block: the CPU's bus transactions and the host's events (00_scope.md R16), one constructor per row of spec/opcode_table.json, with the operands the row's rule gives it. -/

namespace Sys2Proof

/-- A bus transaction or a host event (R82). -/
inductive Instr where
  /-- MEMR (R100): read a byte of memory. -/
  | memr (a : Addr)
  /-- MEMW (R101): write a byte of memory. -/
  | memw (a : Addr) (v : Byte)
  /-- MEMR16 (R102): read a 16-bit word. -/
  | memr16 (a : Addr)
  /-- MEMW16 (R103): write a 16-bit word. -/
  | memw16 (a : Addr) (w : Word)
  /-- IOR_KBD (R123): read port 0xFA, the selected key row. -/
  | iorKbd
  /-- IOW_CATH (R124): write port 0xFA, the cathode and row select. -/
  | iowCath (v : Byte)
  /-- IOW_SEG (R140): write port 0xF8, a segment pattern to the selected digit. -/
  | iowSeg (v : Byte)
  /-- IOW_SAVE (R164): write port 0x5A, the save trigger. -/
  | iowSave (v : Byte)
  /-- IOW_LOAD (R165): write port 0xAD, the load trigger. -/
  | iowLoad (v : Byte)
  /-- IOR_EXPA (R191): read port 0xF4, expander port A. -/
  | iorExpa
  /-- IOR_EXPB (R192): read port 0xF5, expander port B. -/
  | iorExpb
  /-- IOW_EXPA (R193): write port 0xF4, expander port A. -/
  | iowExpa (v : Byte)
  /-- IOW_EXPB (R195): write port 0xF5, expander port B. -/
  | iowExpb (v : Byte)
  /-- IOW_EXPCTL (R194): write port 0xF7, the expander's direction control word. -/
  | iowExpctl (v : Byte)
  /-- IOR_FLOAT (R211): read a port that has no read handler. -/
  | iorFloat (p : Port)
  /-- IOW_NOP (R212): write a port that has no write handler. -/
  | iowNop (p : Port) (v : Byte)
  /-- TICK (R214): the host timer. -/
  | tick
  /-- KEY_DOWN (R120): a key press. -/
  | keyDown (row code : Byte)
  /-- KEY_UP (R121): a key release. -/
  | keyUp (row : Byte)
  /-- RUN_TOGGLE (R216): the start/stop button. -/
  | runToggle
  /-- RUN_START (R217). -/
  | runStart
  /-- RUN_STOP (R218). -/
  | runStop
  /-- RESET_CMD (R219): the reset button. -/
  | resetCmd
  /-- INT_CMD (R220): the interrupt button. -/
  | intCmd
  /-- POWER_ON (R270): process start. -/
  | powerOn
  deriving DecidableEq, Repr

/-- Why a word is no transaction (R75). -/
inductive DecodeError where
  /-- `cls` is 0x6, 0x7 or 0x9..0xF. -/
  | unusedClass
  /-- `sub` is not 0 for a bus class. -/
  | busSubNotZero
  /-- `sub` is 0x9..0xF for HOST. -/
  | unusedHostEvent
  deriving DecidableEq, Repr

end Sys2Proof
end

