-- ==== Sys2Proof/WellFormed.lean ====
section
/-! DEFINITION. Which instructions are well formed: an unmapped-port transaction names a port without a handler (45_iobus_scheduler.md R210 to R212), and a key event a row 0..8 (41_keyboard.md R120, R121). Every other operand may hold any value of its type. -/

namespace Sys2Proof

/-- The ports that have a read handler (R210). -/
def readPorts : List Port := [0xF4#8, 0xF5#8, 0xFA#8]

/-- The ports that have a write handler (R210). -/
def writePorts : List Port := [0xF4#8, 0xF5#8, 0xF7#8, 0xF8#8, 0xFA#8, 0x5A#8, 0xAD#8]

/-- The instruction is one the tables of the spec can name (R83, R210). -/
def Instr.wf : Instr → Bool
  | .iorFloat p => !readPorts.contains p
  | .iowNop p _ => !writePorts.contains p
  | .keyDown row _ => decide (row.toNat < 9)
  | .keyUp row => decide (row.toNat < 9)
  | .memr _ | .memw _ _ | .memr16 _ | .memw16 _ _ | .iorKbd | .iowCath _ | .iowSeg _ | .iowSave _ | .iowLoad _
  | .iorExpa | .iorExpb | .iowExpa _ | .iowExpb _ | .iowExpctl _ | .tick | .runToggle | .runStart | .runStop
  | .resetCmd | .intCmd | .powerOn => true

end Sys2Proof
end

