-- ==== Sys2Proof/Decode.lean ====
section
/-! DEFINITION. The decoder and the encoder of the 40-bit transaction word (30_encoding.md R70 to R75, R82). The table below is spec/opcode_table.json row for row; a word is matched from the highest priority to the lowest (R74), and one that matches no row is rejected by name (R75). -/

namespace Sys2Proof

/-! ## The fields of a word (R70, R72) -/

/-- `cls`, W[39:36]. -/
def TxWord.cls (w : TxWord) : BitVec 4 := w.extractLsb' 36 4
/-- `sub`, W[35:32]. -/
def TxWord.sub (w : TxWord) : BitVec 4 := w.extractLsb' 32 4
/-- `addr`, W[31:16]. -/
def TxWord.addr (w : TxWord) : Addr := w.extractLsb' 16 16
/-- The port, W[23:16] (R71). -/
def TxWord.port (w : TxWord) : Port := w.extractLsb' 16 8
/-- The 16-bit `data`, W[15:0]. -/
def TxWord.data (w : TxWord) : Word := w.extractLsb' 0 16
/-- The byte of `data`, W[7:0]; a key event's `code` (R72). -/
def TxWord.byte (w : TxWord) : Byte := w.extractLsb' 0 8
/-- A key event's `row`, W[15:8] (R72). -/
def TxWord.row (w : TxWord) : Byte := w.extractLsb' 8 8

/-! ## The table -/

/-- One row of the opcode table: the words with `W & mask = pat`, and the instruction such a word stands for. -/
structure Row where
  mnemonic : String
  pat : TxWord
  mask : TxWord
  priority : Nat
  build : TxWord → Instr

/-- The word is one of the row's: `(W & mask) = match` (R74). -/
def Row.covers (r : Row) (w : TxWord) : Bool := w &&& r.mask == r.pat

/-- The mask of the rows that `cls` and `sub` select. -/
def maskClass : TxWord := 0xFF00000000#40
/-- The mask of the rows that `cls`, `sub` and the port select. -/
def maskPort : TxWord := 0xFF00FF0000#40

/-- The memory rows (R82). -/
def memoryRows : List Row := [
  ⟨"MEMR", 0x0000000000#40, maskClass, 1, fun w => .memr w.addr⟩,
  ⟨"MEMW", 0x1000000000#40, maskClass, 1, fun w => .memw w.addr w.byte⟩,
  ⟨"MEMR16", 0x2000000000#40, maskClass, 1, fun w => .memr16 w.addr⟩,
  ⟨"MEMW16", 0x3000000000#40, maskClass, 1, fun w => .memw16 w.addr w.data⟩]

/-- The port rows and the two catch-all rows (R82). -/
def portRows : List Row := [
  ⟨"IOR_KBD", 0x4000FA0000#40, maskPort, 1, fun _ => .iorKbd⟩,
  ⟨"IOW_CATH", 0x5000FA0000#40, maskPort, 1, fun w => .iowCath w.byte⟩,
  ⟨"IOW_SEG", 0x5000F80000#40, maskPort, 1, fun w => .iowSeg w.byte⟩,
  ⟨"IOW_SAVE", 0x50005A0000#40, maskPort, 1, fun w => .iowSave w.byte⟩,
  ⟨"IOW_LOAD", 0x5000AD0000#40, maskPort, 1, fun w => .iowLoad w.byte⟩,
  ⟨"IOR_EXPA", 0x4000F40000#40, maskPort, 1, fun _ => .iorExpa⟩,
  ⟨"IOR_EXPB", 0x4000F50000#40, maskPort, 1, fun _ => .iorExpb⟩,
  ⟨"IOW_EXPA", 0x5000F40000#40, maskPort, 1, fun w => .iowExpa w.byte⟩,
  ⟨"IOW_EXPB", 0x5000F50000#40, maskPort, 1, fun w => .iowExpb w.byte⟩,
  ⟨"IOW_EXPCTL", 0x5000F70000#40, maskPort, 1, fun w => .iowExpctl w.byte⟩,
  ⟨"IOR_FLOAT", 0x4000000000#40, maskClass, 0, fun w => .iorFloat w.port⟩,
  ⟨"IOW_NOP", 0x5000000000#40, maskClass, 0, fun w => .iowNop w.port w.byte⟩]

/-- The host event rows (R72, R82). -/
def hostRows : List Row := [
  ⟨"TICK", 0x8000000000#40, maskClass, 1, fun _ => .tick⟩,
  ⟨"KEY_DOWN", 0x8100000000#40, maskClass, 1, fun w => .keyDown w.row w.byte⟩,
  ⟨"KEY_UP", 0x8200000000#40, maskClass, 1, fun w => .keyUp w.row⟩,
  ⟨"RUN_TOGGLE", 0x8300000000#40, maskClass, 1, fun _ => .runToggle⟩,
  ⟨"RUN_START", 0x8400000000#40, maskClass, 1, fun _ => .runStart⟩,
  ⟨"RUN_STOP", 0x8500000000#40, maskClass, 1, fun _ => .runStop⟩,
  ⟨"RESET_CMD", 0x8600000000#40, maskClass, 1, fun _ => .resetCmd⟩,
  ⟨"INT_CMD", 0x8700000000#40, maskClass, 1, fun _ => .intCmd⟩,
  ⟨"POWER_ON", 0x8800000000#40, maskClass, 1, fun _ => .powerOn⟩]

/-- spec/opcode_table.json, its rows in order (R82). -/
def opcodeTable : List Row := memoryRows ++ portRows ++ hostRows

/-- The first row of a priority that the word is one of (R74). -/
def findRow (priority : Nat) (w : TxWord) : Option Row :=
  opcodeTable.find? fun r => r.priority == priority && r.covers w

/-- Why a word that matches no row is none (R75). -/
def rejectReason (w : TxWord) : DecodeError :=
  if w.cls.toNat < 6 then .busSubNotZero else if w.cls = 0x8#4 then .unusedHostEvent else .unusedClass

/-- The instruction a word stands for, matched from the highest priority to the lowest (R74), or why there is none (R75). -/
def decode (w : TxWord) : Except DecodeError Instr :=
  match (findRow 1 w).or (findRow 0 w) with
  | some r => .ok (r.build w)
  | none => .error (rejectReason w)

/-- The decoder on the bits `w` of an instruction of `nbits` bits, numbered as the table numbers them (R70): the bits
from `nbits` on are 0, and a word longer than 40 bits is none (R73). -/
def decodeTableWord (nbits w : Nat) : Option Instr :=
  if w % 2 ^ nbits < 2 ^ 40 then (decode (BitVec.ofNat 40 (w % 2 ^ nbits))).toOption else none

/-! ## The encoder -/

/-- A word from its four fields (R70). -/
def packWord (cls sub : BitVec 4) (addr : Addr) (data : Word) : TxWord := cls ++ sub ++ addr ++ data

/-- An I/O word: the port in W[23:16], the byte in W[7:0], the ignored bits zero (R70, R71). -/
def packIo (cls : BitVec 4) (port : Port) (v : Byte) : TxWord := packWord cls 0#4 (0#8 ++ port) (0#8 ++ v)

/-- A host event's word: the event code in `sub`, the arguments in `data`, the ignored bits zero (R72). -/
def packHost (sub : BitVec 4) (data : Word) : TxWord := packWord 0x8#4 sub 0#16 data

/-- The word of an instruction, every ignored bit zero (R70, R72, R82; log 17). -/
def encode : Instr → TxWord
  | .memr a => packWord 0x0#4 0#4 a 0#16
  | .memw a v => packWord 0x1#4 0#4 a (0#8 ++ v)
  | .memr16 a => packWord 0x2#4 0#4 a 0#16
  | .memw16 a w => packWord 0x3#4 0#4 a w
  | .iorKbd => packIo 0x4#4 0xFA#8 0#8
  | .iowCath v => packIo 0x5#4 0xFA#8 v
  | .iowSeg v => packIo 0x5#4 0xF8#8 v
  | .iowSave v => packIo 0x5#4 0x5A#8 v
  | .iowLoad v => packIo 0x5#4 0xAD#8 v
  | .iorExpa => packIo 0x4#4 0xF4#8 0#8
  | .iorExpb => packIo 0x4#4 0xF5#8 0#8
  | .iowExpa v => packIo 0x5#4 0xF4#8 v
  | .iowExpb v => packIo 0x5#4 0xF5#8 v
  | .iowExpctl v => packIo 0x5#4 0xF7#8 v
  | .iorFloat p => packIo 0x4#4 p 0#8
  | .iowNop p v => packIo 0x5#4 p v
  | .tick => packHost 0x0#4 0#16
  | .keyDown row code => packHost 0x1#4 (row ++ code)
  | .keyUp row => packHost 0x2#4 (row ++ 0#8)
  | .runToggle => packHost 0x3#4 0#16
  | .runStart => packHost 0x4#4 0#16
  | .runStop => packHost 0x5#4 0#16
  | .resetCmd => packHost 0x6#4 0#16
  | .intCmd => packHost 0x7#4 0#16
  | .powerOn => packHost 0x8#4 0#16

end Sys2Proof
end

