-- ==== Sys2Proof/Config.lean ====
section
/-! DEFINITION. The parameters of the block: those the source fixes (00_scope.md R7), those it leaves open (R8), and the free values, the spec's draws (R14, R17). An open parameter or a free value is an opaque constant with no body: no proof can lean on what it is. -/

namespace Sys2Proof

/-- The name of a stored object, as BLOCK_NAME builds it from a block id "used verbatim" (R161): the textual format is
not given, only that it is injective, so a name is the id under a constructor. DESIGN CHOICE (log 14), safe. -/
structure ObjName where
  block : Byte
  deriving DecidableEq, Repr

/-- The seven segments a renderer may name a bus bit by (R8 SEG_MAP, R146). -/
inductive Segment where
  | a | b | c | d | e | f | g
  deriving DecidableEq, Repr, Inhabited

namespace Config

/-! ## Parameters the source fixes (R7) -/

/-- WINDOW: the RAM window in bytes. -/
abbrev window : Nat := 8192
/-- WINDOW_MASK: applied to every RAM address. -/
abbrev windowMask : Addr := 0x1FFF#16
/-- IDLE_ROW: a key row with no key asserted. -/
abbrev idleRow : Byte := 0x7F#8
/-- BLANK: the segment pattern of no digit selected. -/
abbrev blank : BitVec 7 := 0x7F#7
/-- FLOAT: read from an unmapped port or an absent expander. -/
abbrev float : Byte := 0xFF#8
/-- DECAY_RELOAD: loaded by a non-blank display write, in ticks. -/
abbrev decayReload : Nat := 50
/-- CYCLE_BUDGET: CPU cycles per tick. -/
abbrev cycleBudget : Nat := 1100
/-- CELL_LEN: the RAM offset of the block length and start-low cell. -/
abbrev cellLen : Nat := 0x1FF8
/-- CELL_HI: the RAM offset of the start address's high byte. -/
abbrev cellHi : Nat := 0x1FF9
/-- CELL_ID: the RAM offset of the block id. -/
abbrev cellId : Nat := 0x1FFA
/-- MAX_BLOCK: the largest block length a save can request. -/
abbrev maxBlock : Nat := 256

/-- ACTIVE_BIT of the expansion control word (R8, R79). PRESUMED by the spec from the 8255 (D21, log 15), unsafe. -/
abbrev activeBit : Nat := 7
/-- DIR_A_BIT of the expansion control word (R8, R79). PRESUMED (log 15), unsafe. -/
abbrev dirABit : Nat := 4
/-- DIR_B_BIT of the expansion control word (R8, R79). PRESUMED (log 15), unsafe. -/
abbrev dirBBit : Nat := 1

/-! ## Parameters the source leaves open (R8; log 13) -/

/-- ROM_SIZE less one: R8 and R272 bound ROM_SIZE by 1 and 0x2000. -/
opaque romSizePred : Fin 8192

/-- ROM_SIZE (R8). -/
def romSize : Nat := romSizePred.val + 1

/-- The byte of ROM_IMAGE at an index; only indices below ROM_SIZE are used (R8). -/
opaque romByte : Nat → Byte

/-- ROM_IMAGE: exactly ROM_SIZE bytes, fixed for the whole run (R8, R272). -/
def romImage : List Byte := (List.range romSize).map romByte

/-- VEC_OK: where the CPU resumes after a block operation that succeeded (R8, R168). -/
opaque vecOk : Addr

/-- VEC_ERR: where the CPU resumes after a block operation that failed (R8, R168). -/
opaque vecErr : Addr

/-- INT_VECTOR: what the interrupt command hands to the CPU (R8, R220). Its type is not given: a natural number (log 18). -/
opaque intVector : Nat

/-- EXP_PRESENT: the expander probe's result (R8, R29). -/
opaque expPresent : Bool

/-- STORE_AVAILABLE (R8, R34). -/
opaque storeAvailable : Bool

/-- STORE_INIT: what the persistent store holds at power-on (R8, R34); no object where it answers none. -/
opaque storeInit : ObjName → Option (List Byte)

/-- KEY_TABLE: a logical key to its row and code (R8, R125). Logical keys are numbered (log 18). -/
opaque keyTable : Nat → Fin 9 × Byte

/-- SEG_MAP: a bus bit to the segment it drives (R8, R77, R146); renderer side, read by nothing in the block. -/
opaque segMap : Fin 7 → Segment

/-- BLOCK_NAME (R161): injective on 0..255 (log 14). -/
def blockName (id : Byte) : ObjName := ⟨id⟩

/-! ## Free values: the spec's draws (R14, R17; log 8 to 12) -/

/-- The RAM byte at an offset at power-on: a draw, any 8192 bytes (R23, D4). DESIGN CHOICE (log 8), safe. -/
opaque ramPowerOn : Nat → Byte

/-- `cathode` at power-on: a draw in 0..15 (R24, D7). DESIGN CHOICE (log 9), safe. -/
opaque cathodePowerOn : BitVec 4

/-- What the expander's live input latch answers at the n-th draw (R190, D23). DESIGN CHOICE (log 11), safe. -/
opaque expInput : Nat → Byte

/-- Whether an available store fails the call that is the n-th draw (R162, D19). DESIGN CHOICE (log 12), safe. -/
opaque storeFails : Nat → Bool

/-- What a name holds after a failed write, the n-th draw: absent, or any bytes, the old ones among them (R162, D20).
DESIGN CHOICE (log 12), safe. -/
opaque storeAfterFailedWrite : Nat → Option (List Byte)

/-- A RAM byte of the target range after a failed load read, the n-th draw (R167, D42). DESIGN CHOICE (log 12), safe. -/
opaque ramAfterFailedRead : Nat → Byte

end Config

end Sys2Proof
end

