-- ==== Sys2Proof/Machine/State.lean ====
section
/-! DEFINITION. The state of the block (10_state.md R20 to R36), the traces a run is observed by (70_reset_and_hazards.md R284), what waits to be applied, and State.reset, the state power-on gives (R270). Plain data. -/

namespace Sys2Proof.Machine

/-- Why a step would fault: never. "The block raises no synchronous exception, trap or fault" (60_exceptions.md R240),
so there is no constructor. -/
inductive Fault where
  deriving DecidableEq, Repr

/-- Why the model gives an input no step ("refused", 00_scope.md R18). Every one is safe: the model stops. -/
inductive Refusal where
  /-- Raised by an arm of `exec` whose instruction has no meaning yet; safe. No arm raises it. -/
  | notModelled (mnemonic : String)
  /-- Raised by `step`: the word matches no row, so it is no transaction (R75); safe. -/
  | notATransaction (why : DecodeError)
  /-- Raised by KEY_DOWN and KEY_UP: `row` is 9 or more (R83, R120, R121); safe. -/
  | keyRowOutOfRange
  /-- Raised by a host event: `require not in_tick` fails (R65, R120, R121, R214 to R220); safe. -/
  | hostEventInTick
  /-- Raised by POWER_ON: it is not the first event of the run (R270); safe. -/
  | powerOnNotFirst
  /-- Raised by `step`: a CPU-step return arrives while no tick runs a CPU step (R215; log 3); safe. -/
  | cpuReturnOutsideTick
  deriving DecidableEq, Repr

/-- The run states (R32, R249). -/
inductive RunState where
  | stopped
  | running
  deriving DecidableEq, Repr

/-- A whole-port direction of the expander (R30). -/
inductive Direction where
  | input
  | output
  deriving DecidableEq, Repr

/-- The expander's two ports (R190). -/
inductive ExpPort where
  | a
  | b
  deriving DecidableEq, Repr

/-- One segment state sent to the renderer: `Seg(d, s, on)` (R14, R28). -/
structure SegEvent where
  digit : Fin 9
  seg : Fin 7
  on : Bool
  deriving DecidableEq, Repr

/-- A display digit (R26). -/
structure Digit where
  /-- `segs[s]`: the segment is lit, as last sent to the renderer. -/
  segs : Vector Bool 7
  /-- `decay`: 0 for a blank digit, else how many further aging passes blank it. -/
  decay : Nat
  /-- `last_seen`: the pattern last painted, 0x7F when dark. -/
  lastSeen : BitVec 7
  deriving DecidableEq, Repr

/-- A call the block makes to the CPU core (R13). -/
inductive CpuCall where
  /-- `cost <- cpu.step()`: a CPU step begins. -/
  | step
  /-- `cpu.reset()`. -/
  | reset
  /-- `pc <- target`: `setProgramCounter(target)`. -/
  | setProgramCounter (target : Addr)
  /-- `cpu.raiseInterrupt(v)`. -/
  | raiseInterrupt (vector : Nat)
  deriving DecidableEq, Repr

/-- A call the block makes to the persistent store (R162). -/
inductive StoreCall where
  | lookup (name : ObjName)
  | read (name : ObjName)
  | write (name : ObjName) (bytes : List Byte)
  deriving DecidableEq, Repr

/-- A call the block makes to the expander chip (R190). -/
inductive ExpCall where
  | read (p : ExpPort)
  | write (p : ExpPort) (v : Byte)
  | setDir (p : ExpPort) (d : Direction)
  deriving DecidableEq, Repr

/-- What a read transaction returns to the CPU (R70). -/
inductive BusResult where
  | byte (v : Byte)
  | word (w : Word)
  deriving DecidableEq, Repr

/-- What the outside delivers to the block: a transaction or event as its word (R70), or the return of the CPU step that
a Running tick is executing, with its cost (R215). DESIGN CHOICE (log 1, log 3), safe. -/
inductive Input where
  | word (w : TxWord)
  | cpuReturn (cost : Nat)
  deriving DecidableEq, Repr

/-- The RAM window's contents by offset (R23), in the one canonical form `Memory.wf` of Machine/Ops.lean: offsets strictly
rising, and no entry equal to what an unlisted offset reads as (`Config.ramPowerOn`; log 8). -/
abbrev Memory := List Host.Cell

/-- The persistent store by block id (R34, R161), in the same canonical form, over `Config.storeInit` (log 13, log 14). An
entry with no bytes says that the object is absent. -/
abbrev Store := List (Nat × Option (List Byte))

/-- The state of the block. -/
structure State where
  /-- `ROM`, ROM_SIZE bytes (R22; log 21). -/
  rom : List Byte
  /-- `RAM`, 8192 bytes (R23). -/
  ram : Memory
  /-- `cathode`, the shared strobe select (R24). -/
  cathode : BitVec 4
  /-- `key_row[0..8]` (R25). -/
  keyRow : Vector Byte 9
  /-- `digit[0..8]` (R26). -/
  digits : Vector Digit 9
  /-- `seg_trace`, oldest first (R28). -/
  segTrace : List SegEvent
  /-- `exp_present` (R29). -/
  expPresent : Bool
  /-- `exp_dir_A` (R30). -/
  expDirA : Direction
  /-- `exp_dir_B` (R30). -/
  expDirB : Direction
  /-- `run` (R32). -/
  run : RunState
  /-- `in_tick` (R33). -/
  inTick : Bool
  /-- `acc` (R33). -/
  acc : Nat
  /-- `store` (R34). -/
  store : Store
  /-- `store_available` (R34). -/
  storeAvailable : Bool
  /-- The calls made to the CPU, oldest first (R284; log 7). -/
  cpuCalls : List CpuCall
  /-- The calls made to the store, oldest first (R284; log 7). -/
  storeCalls : List StoreCall
  /-- The calls made to the expander, oldest first (R284; log 7). -/
  expCalls : List ExpCall
  /-- What was returned to the CPU, oldest first (R70, R284; log 7). -/
  returned : List BusResult
  /-- The model's own: how many draws have been taken (log 10). -/
  draws : Nat
  /-- The model's own: what waits to be applied, the next first (log 1). -/
  inputs : List Input
  /-- The model's own: some input has been applied, so a POWER_ON is no longer the first event (R270; log 6). -/
  started : Bool
  deriving DecidableEq, Repr

/-- The nine digits, ascending (R141). -/
def allDigits : List (Fin 9) := [0, 1, 2, 3, 4, 5, 6, 7, 8]

/-- The seven segments, ascending: the order of emission within a paint (R140's `paint`, D39; log 16). -/
def allSegs : List (Fin 7) := [0, 1, 2, 3, 4, 5, 6]

/-- A digit at power-on: dark (R26). -/
def darkDigit : Digit := { segs := Vector.replicate 7 false, decay := 0, lastSeen := Config.blank }

/-- The events of the power-on clear of all nine digits, in its order (R28, R142, R270). -/
def clearTrace : List SegEvent := allDigits.flatMap fun d => allSegs.map fun k => ⟨d, k, false⟩

/-- The state power-on gives (10_state.md section 9, R270), with nothing delivered yet. `ram` and `cathode` are draws (log 8,
log 9); ROM, EXP_PRESENT, STORE_AVAILABLE and STORE_INIT are open parameters (log 13); the traces hold what power-on does
(log 7); `draws`, `inputs` and `started` are the model's own (log 1, log 6, log 10). -/
def State.reset : State where
  rom := Config.romImage
  ram := []
  cathode := Config.cathodePowerOn
  keyRow := Vector.replicate 9 Config.idleRow
  digits := Vector.replicate 9 darkDigit
  segTrace := clearTrace
  expPresent := Config.expPresent
  expDirA := .input
  expDirB := .input
  run := .stopped
  inTick := false
  acc := 0
  store := []
  storeAvailable := Config.storeAvailable
  cpuCalls := [.reset]
  storeCalls := []
  expCalls := []
  returned := []
  draws := 0
  inputs := []
  started := false

end Sys2Proof.Machine
end

