-- ==== Sys2Proof/Machine/Operands.lean ====
section
/-! DEFINITION. The data encodings of the operands (30_encoding.md R76 to R80): cathode byte, segment byte, expansion control word, block-store parameter cells; and the RAM offset of an address (20_memory.md R51). -/

namespace Sys2Proof.Machine

/-- `a & 0x1FFF`: the RAM offset an address reaches (R51). -/
def ramOffset (a : Addr) : Nat := (a &&& Config.windowMask).toNat

/-- `(a + 1) mod 2^16`: the second address of a word access (R57, R58; log 20). -/
def nextAddr (a : Addr) : Addr := a + 1#16

/-- The low byte of a word (R57, R103). -/
def lowByte (w : Word) : Byte := w.extractLsb' 0 8

/-- The high byte of a word (R57, R103). -/
def highByte (w : Word) : Byte := w.extractLsb' 8 8

/-- `(hi << 8) | lo`: a word from its two bytes, little-endian (R57, R102). -/
def wordOf (hi lo : Byte) : Word := hi ++ lo

/-- The cathode select byte: `(~v) & 0x0F` (R76). -/
def cathodeOf (v : Byte) : BitVec 4 := (~~~v).extractLsb' 0 4

/-- The segment byte's pattern: `v & 0x7F`, bit 7 ignored (R77). -/
def segPattern (v : Byte) : BitVec 7 := v.extractLsb' 0 7

/-- Segment `k` is lit when its bit of the pattern is 0 (R77). -/
def segLit (p : BitVec 7) (k : Fin 7) : Bool := !p.getLsbD k.val

/-- The seven segment states of a pattern (R77). -/
def segsOf (p : BitVec 7) : Vector Bool 7 := Vector.ofFn (segLit p)

/-- The segment a Seg event's bus bit drives, by SEG_MAP (R77, R146): what a renderer calls it. -/
def SegEvent.segment (e : SegEvent) : Segment := Config.segMap e.seg

/-- The expansion control word is honoured: its active bit is set (R79). -/
def ctlActive (v : Byte) : Bool := v.getLsbD Config.activeBit

/-- A port's direction from its bit of the control word: 1 = IN, 0 = OUT (R79). -/
def ctlDir (v : Byte) (bit : Nat) : Direction := if v.getLsbD bit then .input else .output

/-- The block-store parameters decoded from the cells (R80). -/
structure BlockParams where
  id : Byte
  start : Nat
  length : Nat
  deriving DecidableEq, Repr

/-- `start = (hi << 8) | lo` (R80). -/
def blockStart (lo hi : Byte) : Nat := hi.toNat * 256 + lo.toNat

/-- `length = ((~lo) & 0xFF) + 1`, 1..256 (R80). -/
def blockLength (lo : Byte) : Nat := (~~~lo).toNat + 1

end Sys2Proof.Machine
end

