-- ==== Sys2Proof/Machine/Ops.lean ====
section
/-! DEFINITION. The named operations the meanings share: memory in its canonical form and the memory map, the traces, the draws, the display, the expander and the persistent store with its two block operations, vector redirection (the block's one trap-like mechanism, R245), and the scheduler's pieces. -/

namespace Sys2Proof.Machine

/-! ## Sparse data in one canonical form

A list of key and value pairs over a default `d`: keys strictly rising, and no entry equal to the default at its key. -/

/-- The value at a key: the entry's, else the default. -/
def Sparse.read {β : Type} (d : Nat → β) : List (Nat × β) → Nat → β
  | [], k => d k
  | (a, v) :: m, k => if k = a then v else Sparse.read d m k

/-- Put an entry before the first entry of a greater key. -/
def Sparse.insert {β : Type} : List (Nat × β) → Nat → β → List (Nat × β)
  | [], k, v => [(k, v)]
  | (a, w) :: m, k, v => if k < a then (k, v) :: (a, w) :: m else (a, w) :: Sparse.insert m k v

/-- Set the value at a key, keeping the canonical form: the key's old entry goes, and a new one stands only for a value
that is not the default. -/
def Sparse.write {β : Type} [DecidableEq β] (d : Nat → β) (m : List (Nat × β)) (k : Nat) (v : β) : List (Nat × β) :=
  let others := m.filter fun e => e.1 != k
  if v = d k then others else Sparse.insert others k v

/-- The canonical form, with every key below a bound. -/
def Sparse.wf {β : Type} [DecidableEq β] (d : Nat → β) (bound : Nat) : List (Nat × β) → Bool
  | [] => true
  | (a, v) :: m => decide (a < bound) && decide (v ≠ d a) && m.all (fun e => decide (a < e.1)) && Sparse.wf d bound m

/-! ## RAM (R23) -/

/-- The RAM byte at an offset; an unlisted one reads as the power-on draw (R23; log 8). -/
def Memory.read (m : Memory) (o : Nat) : Byte := Sparse.read Config.ramPowerOn m o

/-- Write the RAM byte at an offset. -/
def Memory.write (m : Memory) (o : Nat) (v : Byte) : Memory := Sparse.write Config.ramPowerOn m o v

/-- The canonical form of RAM: offsets strictly rising and inside the window, no entry equal to the power-on draw. -/
def Memory.wf (m : Memory) : Bool := Sparse.wf Config.ramPowerOn Config.window m

/-- `RAM[start] ++ ... ++ RAM[start+n-1]` (R166). -/
def Memory.readRange (m : Memory) (start n : Nat) : List Byte := (List.range n).map fun i => m.read (start + i)

/-- `for i in 0..n-1: RAM[start+i] <- bytes[i]`, ascending (R167). -/
def Memory.writeRange (m : Memory) (start : Nat) : List Byte → Memory
  | [] => m
  | b :: bs => (m.write start b).writeRange (start + 1) bs

/-! ## The memory map (R51, R100 to R103) -/

/-- `decode_read`: ROM below ROM_SIZE, else RAM at the masked address (R51, R100). -/
def State.readByte (s : State) (a : Addr) : Byte :=
  if h : a.toNat < s.rom.length then s.rom[a.toNat] else s.ram.read (ramOffset a)

/-- `decode_write`: always RAM at the masked address; ROM is never written (R51, R101). -/
def State.writeByte (s : State) (a : Addr) (v : Byte) : State :=
  { s with ram := s.ram.write (ramOffset a) v }

/-- Two byte reads, little-endian (R57, R102). -/
def State.readWord (s : State) (a : Addr) : Word := wordOf (s.readByte (nextAddr a)) (s.readByte a)

/-- Two byte writes, the low byte first (R57, R103). -/
def State.writeWord (s : State) (a : Addr) (w : Word) : State :=
  (s.writeByte a (lowByte w)).writeByte (nextAddr a) (highByte w)

/-! ## What is sent out (R13, R14, R70, R284) -/

/-- Return a byte to the CPU. -/
def State.returnByte (s : State) (v : Byte) : State := { s with returned := s.returned ++ [.byte v] }

/-- Return a word to the CPU. -/
def State.returnWord (s : State) (w : Word) : State := { s with returned := s.returned ++ [.word w] }

/-- Make a call to the CPU core. -/
def State.callCpu (s : State) (c : CpuCall) : State := { s with cpuCalls := s.cpuCalls ++ [c] }

/-- Send segment states to the renderer. -/
def State.emit (s : State) (es : List SegEvent) : State := { s with segTrace := s.segTrace ++ es }

/-! ## Keyboard and strobe (R120 to R124) -/

/-- `key_row[row] <- code`, a whole-byte replacement (R120). -/
def State.setKeyRow (s : State) (row : Fin 9) (code : Byte) : State := { s with keyRow := s.keyRow.set row code }

/-- The byte of the selected row; 0x7F when `cathode` selects none (R123). -/
def State.selectedRow (s : State) : Byte :=
  if h : s.cathode.toNat < 9 then s.keyRow[s.cathode.toNat] else Config.idleRow

/-! ## Display (R140 to R142) -/

/-- The seven events of painting a pattern, ascending (R140's `paint`). -/
def paintEvents (d : Fin 9) (p : BitVec 7) : List SegEvent := allSegs.map fun k => ⟨d, k, segLit p k⟩

/-- `paint(d, p)`: set and send the seven segment states of a pattern (R140's `paint`). -/
def State.paint (s : State) (d : Fin 9) (p : BitVec 7) : State :=
  { s with digits := s.digits.set d { s.digits[d] with segs := segsOf p } }.emit (paintEvents d p)

/-- `digit[d].decay <- n`. -/
def State.setDecay (s : State) (d : Fin 9) (n : Nat) : State :=
  { s with digits := s.digits.set d { s.digits[d] with decay := n } }

/-- `digit[d].last_seen <- p`. -/
def State.setLastSeen (s : State) (d : Fin 9) (p : BitVec 7) : State :=
  { s with digits := s.digits.set d { s.digits[d] with lastSeen := p } }

/-- `setDigit` on digit `d` with a non-blank pattern: reload the decay, repaint on change (R140). -/
def State.refreshDigit (s : State) (d : Fin 9) (p : BitVec 7) : State :=
  let s := s.setDecay d Config.decayReload
  if p ≠ s.digits[d].lastSeen then (s.paint d p).setLastSeen d p else s

/-- `setDigit(cathode, value)`: a blank pattern or a missing digit changes nothing (R140). -/
def State.setDigit (s : State) (v : Byte) : State :=
  if segPattern v = Config.blank then s
  else if h : s.cathode.toNat < 9 then s.refreshDigit ⟨s.cathode.toNat, h⟩ (segPattern v) else s

/-- One digit's part of the aging pass (R141). -/
def State.ageDigit (s : State) (d : Fin 9) : State :=
  if s.digits[d].decay ≠ 0 then
    let s := s.setDecay d (s.digits[d].decay - 1)
    if s.digits[d].decay = 0 then (s.paint d Config.blank).setLastSeen d Config.blank else s
  else s

/-- The display aging pass, digits ascending (R141). -/
def State.agePass (s : State) : State := allDigits.foldl State.ageDigit s

/-- `clear(d)`: immediate all-off (R142). -/
def State.clearDigit (s : State) (d : Fin 9) : State :=
  ((s.paint d Config.blank).setLastSeen d Config.blank).setDecay d 0

/-! ## The expander chip (R190; log 11) -/

/-- `exp.read(p)`: a fresh draw of the live input latch. -/
def State.expReadByte (s : State) : Byte := Config.expInput s.draws

/-- The state after `exp.read(p)`: the call made and the draw taken. -/
def State.afterExpRead (s : State) (p : ExpPort) : State :=
  { s with expCalls := s.expCalls ++ [.read p], draws := s.draws + 1 }

/-- `readPort(p)`: the chip's answer, or 0xFF when it is absent (R191, R192, R197). -/
def State.expIn (s : State) (p : ExpPort) : State :=
  if s.expPresent then (s.afterExpRead p).returnByte s.expReadByte else s.returnByte Config.float

/-- `writePort(p, v)`: dropped when the chip is absent (R193, R195, R197). -/
def State.expOut (s : State) (p : ExpPort) (v : Byte) : State :=
  if s.expPresent then { s with expCalls := s.expCalls ++ [.write p v] } else s

/-- `setDirection(controlWord)`: honoured when the chip is present and the active bit is set (R79, R194). -/
def State.expControl (s : State) (v : Byte) : State :=
  if s.expPresent && ctlActive v then
    { s with
      expDirA := ctlDir v Config.dirABit
      expDirB := ctlDir v Config.dirBBit
      expCalls := s.expCalls ++ [.setDir .a (ctlDir v Config.dirABit), .setDir .b (ctlDir v Config.dirBBit)] }
  else s

/-! ## The persistent store (R34, R162; log 12) -/

/-- What an unlisted name holds: STORE_INIT's object (R34). -/
def storeDefault (k : Nat) : Option (List Byte) := Config.storeInit (Config.blockName (BitVec.ofNat 8 k))

/-- `store[name]`, if the object is there. -/
def Store.get (m : Store) (name : ObjName) : Option (List Byte) := Sparse.read storeDefault m name.block.toNat

/-- Set or remove the object of a name. -/
def Store.put (m : Store) (name : ObjName) (o : Option (List Byte)) : Store :=
  Sparse.write storeDefault m name.block.toNat o

/-- The canonical form of the store. -/
def Store.wf (m : Store) : Bool := Sparse.wf storeDefault 256 m

/-- A store primitive fails: always when the store is unavailable, else as the draw says (R162). -/
def State.storeFails (s : State) : Bool := !s.storeAvailable || Config.storeFails s.draws

/-- The state after a call of a store primitive: the call made and the draw of its failure taken. -/
def State.callStore (s : State) (c : StoreCall) : State :=
  { s with storeCalls := s.storeCalls ++ [c], draws := s.draws + 1 }

/-- The answers of `store.lookup` (R162). -/
inductive LookupResult where
  | fail
  | absent
  | present (n : Nat)
  deriving DecidableEq, Repr

/-- What `store.lookup(name)` answers (R162). -/
def State.lookupResult (s : State) (name : ObjName) : LookupResult :=
  if s.storeFails then .fail
  else match s.store.get name with
    | none => .absent
    | some bytes => .present bytes.length

/-- What `store.read(name)` answers; none is `fail` (R162). -/
def State.readResult (s : State) (name : ObjName) : Option (List Byte) :=
  if s.storeFails then none else s.store.get name

/-- The state after `store.write(name, bytes)`: the object replaced whole, or a draw when the write failed (R162). -/
def State.afterStoreWrite (s : State) (name : ObjName) (bytes : List Byte) : State :=
  { s.callStore (.write name bytes) with
    store := s.store.put name (if s.storeFails then Config.storeAfterFailedWrite s.draws else some bytes) }

/-! ## The block operations (R160 to R167) -/

/-- The error kinds (R241). -/
inductive ErrorKind where
  | addressRange
  | notFound
  | ioError
  | deviceUnavailable
  deriving DecidableEq, Repr

/-- The spec's own code of an error kind; no program can see it (R241). -/
def ErrorKind.code : ErrorKind → Nat
  | .addressRange => 1
  | .notFound => 2
  | .ioError => 3
  | .deviceUnavailable => 4

/-- The result of a block operation: `Ok`, `Ok(n)` or `Err(E)` (R15, R166, R167, R174). -/
inductive BlockResult where
  | ok
  | okBytes (n : Nat)
  | err (e : ErrorKind)
  deriving DecidableEq, Repr

/-- The spec's own code of a result: 0 for success, else the error kind's; no program can see it (R241). -/
def BlockResult.code : BlockResult → Nat
  | .ok | .okBytes _ => 0
  | .err e => e.code

/-- The parameters read from the RAM cells when an operation is triggered (R80, R160). -/
def State.blockParams (s : State) : BlockParams :=
  { id := s.ram.read Config.cellId
    start := blockStart (s.ram.read Config.cellLen) (s.ram.read Config.cellHi)
    length := blockLength (s.ram.read Config.cellLen) }

/-- A byte range fits the RAM window, in exact naturals (R163). -/
def fitsWindow (start n : Nat) : Bool := decide (start + n ≤ Config.window)

/-- `n` draws for the target range of a failed load read (R167, D42). -/
def State.failedReadBytes (s : State) (n : Nat) : List Byte :=
  (List.range n).map fun i => Config.ramAfterFailedRead (s.draws + i)

/-- `save(id, start, length)` (R166): its result and the state it leaves. -/
def State.save (s : State) (id : Byte) (start length : Nat) : BlockResult × State :=
  if fitsWindow start length then
    let name := Config.blockName id
    (if s.storeFails then .err .ioError else .ok, s.afterStoreWrite name (s.ram.readRange start length))
  else (.err .addressRange, s)

/-- The copy of `load(id, start)` once the object is known to be there with `n` bytes that fit (R167). -/
def State.loadCopy (s : State) (name : ObjName) (start n : Nat) : BlockResult × State :=
  let t := s.callStore (.read name)
  match s.readResult name with
  | none =>
    (.err .ioError, { t with ram := t.ram.writeRange start (t.failedReadBytes n), draws := t.draws + n })
  | some bytes => (.okBytes n, { t with ram := t.ram.writeRange start bytes })

/-- `load(id, start)` (R167): its result and the state it leaves. -/
def State.load (s : State) (id : Byte) (start : Nat) : BlockResult × State :=
  let name := Config.blockName id
  let t := s.callStore (.lookup name)
  match s.lookupResult name with
  | .fail => (.err .ioError, t)
  | .absent => (.err .notFound, t)
  | .present n => if fitsWindow start n then t.loadCopy name start n else (.err .addressRange, t)

/-! ## Vector redirection (R168, R245): the block's one trap-like mechanism

It saves nothing and there is no return from it (R246): the CPU is told where to go on. -/

/-- Where the CPU goes on after a block operation (R168). -/
def redirectTarget : BlockResult → Addr
  | .ok | .okBytes _ => Config.vecOk
  | .err _ => Config.vecErr

/-- `redirect(r)`: `pc <- VEC_OK` or `pc <- VEC_ERR` (R168). -/
def State.redirect (s : State) (r : BlockResult) : State := s.callCpu (.setProgramCounter (redirectTarget r))

/-! ## Scheduler (R214, R215) -/

/-- The start of a Running tick: `in_tick <- true`, `acc <- 0`, and the first CPU step is called (R214, R215). -/
def State.beginTick (s : State) : State := { s with inTick := true, acc := 0 }.callCpu .step

/-- The end of a Running tick: the aging pass, then `in_tick <- false` (R214). -/
def State.endTick (s : State) : State := { s.agePass with inTick := false }

/-- A CPU step returns its cost: the budget is tested, and the tick ends or the next CPU step is called (R214, R215). -/
def State.stepReturned (s : State) (cost : Nat) : State :=
  let s := { s with acc := s.acc + cost }
  if Config.cycleBudget ≤ s.acc then s.endTick else s.callCpu .step

/-! ## The input queue (R9, R64; log 1) -/

/-- Take the head of the input queue away. -/
def State.popInput (s : State) : State := { s with inputs := s.inputs.tail }

/-- An input has been applied: no later event is the run's first (R270; log 6). -/
def State.markStarted (s : State) : State := { s with started := true }

end Sys2Proof.Machine
end

