-- ==== Sys2Proof/Machine/Flags.lean ====
section
/-! DEFINITION. The block has no flags and no condition codes (10_state.md R20). Its conditions are the preconditions of the host events: `require not in_tick` (R65) and `require row < 9` (R120). An event whose precondition fails has no step (R18). -/

namespace Sys2Proof.Machine

/-- What a step answers. -/
abbrev Result := Host.Outcome State Fault Refusal

/-- `require not in_tick`: host events occur between ticks (R65, R222). -/
def betweenTicks (s : State) (go : State) : Result :=
  if s.inTick then .refused .hostEventInTick else .next go

/-- `require row < 9`, then `require not in_tick`, then `key_row[row] <- code` (R120, R121). -/
def keyEvent (row code : Byte) (s : State) : Result :=
  if h : row.toNat < 9 then betweenTicks s (s.setKeyRow ⟨row.toNat, h⟩ code) else .refused .keyRowOutOfRange

end Sys2Proof.Machine
end

