-- ==== Sys2Proof/Machine/BlockStore.lean ====
section
/-! DEFINITION. The block-store triggers IOW_SAVE and IOW_LOAD (43_block_store.md R164, R165): the parameters from the RAM cells (R160), the operation (R166, R167), then the redirection (R168). The data byte is ignored (R81). -/

namespace Sys2Proof.Machine

/-- IOW_SAVE (R164). -/
def execIowSave (_v : Byte) (s : State) : Result :=
  let r := s.save s.blockParams.id s.blockParams.start s.blockParams.length
  .next (r.2.redirect r.1)

/-- IOW_LOAD (R165). -/
def execIowLoad (_v : Byte) (s : State) : Result :=
  let r := s.load s.blockParams.id s.blockParams.start
  .next (r.2.redirect r.1)

end Sys2Proof.Machine
end

