-- ==== Sys2Proof/Machine/Display.lean ====
section
/-! DEFINITION. The display write IOW_SEG (42_display.md R140). The aging pass (R141) is run by a Running tick, the clear (R142) by POWER_ON. -/

namespace Sys2Proof.Machine

/-- IOW_SEG (R140; with `cathode` 9..15 it changes nothing, the spec's decision D8, log 19). -/
def execIowSeg (v : Byte) (s : State) : Result := .next (s.setDigit v)

end Sys2Proof.Machine
end

