-- ==== Sys2Proof/Machine/Expansion.lean ====
section
/-! DEFINITION. The expansion port: IOR_EXPA, IOR_EXPB, IOW_EXPA, IOW_EXPB and IOW_EXPCTL (44_expansion.md R190 to R198). -/

namespace Sys2Proof.Machine

/-- IOR_EXPA (R191). -/
def execIorExpa (s : State) : Result := .next (s.expIn .a)

/-- IOR_EXPB (R192). -/
def execIorExpb (s : State) : Result := .next (s.expIn .b)

/-- IOW_EXPA (R193). -/
def execIowExpa (v : Byte) (s : State) : Result := .next (s.expOut .a v)

/-- IOW_EXPB (R195). -/
def execIowExpb (v : Byte) (s : State) : Result := .next (s.expOut .b v)

/-- IOW_EXPCTL (R194). -/
def execIowExpctl (v : Byte) (s : State) : Result := .next (s.expControl v)

end Sys2Proof.Machine
end

