-- ==== Sys2Proof/Machine/IoBus.lean ====
section
/-! DEFINITION. The unmapped ports: IOR_FLOAT and IOW_NOP (45_iobus_scheduler.md R210 to R212). -/

namespace Sys2Proof.Machine

/-- IOR_FLOAT (R211): a floating bus reads 0xFF. -/
def execIorFloat (_p : Port) (s : State) : Result := .next (s.returnByte Config.float)

/-- IOW_NOP (R212): no effect. -/
def execIowNop (_p : Port) (_v : Byte) (s : State) : Result := .next s

end Sys2Proof.Machine
end

