-- ==== Sys2Proof/Machine/Keyboard.lean ====
section
/-! DEFINITION. The keyboard matrix and the strobe: IOR_KBD, IOW_CATH, KEY_DOWN and KEY_UP (41_keyboard.md R120 to R126). -/

namespace Sys2Proof.Machine

/-- IOR_KBD (R123). -/
def execIorKbd (s : State) : Result := .next (s.returnByte s.selectedRow)

/-- IOW_CATH (R124). -/
def execIowCath (v : Byte) (s : State) : Result := .next { s with cathode := cathodeOf v }

/-- KEY_DOWN (R120). -/
def execKeyDown (row code : Byte) (s : State) : Result := keyEvent row code s

/-- KEY_UP (R121). -/
def execKeyUp (row : Byte) (s : State) : Result := keyEvent row Config.idleRow s

end Sys2Proof.Machine
end

