-- ==== Sys2Proof/Machine/MemoryMap.lean ====
section
/-! DEFINITION. The memory transactions MEMR, MEMW, MEMR16 and MEMW16 (40_memory_map.md R100 to R105). -/

namespace Sys2Proof.Machine

/-- MEMR (R100). -/
def execMemr (a : Addr) (s : State) : Result := .next (s.returnByte (s.readByte a))

/-- MEMW (R101). -/
def execMemw (a : Addr) (v : Byte) (s : State) : Result := .next (s.writeByte a v)

/-- MEMR16 (R102). -/
def execMemr16 (a : Addr) (s : State) : Result := .next (s.returnWord (s.readWord a))

/-- MEMW16 (R103). -/
def execMemw16 (a : Addr) (w : Word) (s : State) : Result := .next (s.writeWord a w)

end Sys2Proof.Machine
end

