-- ==== Sys2Proof/Machine/Power.lean ====
section
/-! DEFINITION. POWER_ON (70_reset_and_hazards.md R270). -/

namespace Sys2Proof.Machine

/-- The state POWER_ON leaves, in R270's order. The traces are the run's and begin here (R284; log 7); the store keeps its
contents (R34), and the draws taken and the inputs waiting are the model's own. -/
def State.powerOn (s : State) : State :=
  let s := { s with
    rom := Config.romImage
    ram := []
    cathode := Config.cathodePowerOn
    keyRow := Vector.replicate 9 Config.idleRow
    segTrace := []
    cpuCalls := []
    storeCalls := []
    expCalls := []
    returned := [] }
  let s := allDigits.foldl State.clearDigit s
  let s := { s with
    expPresent := Config.expPresent
    expDirA := .input
    expDirB := .input
    storeAvailable := Config.storeAvailable
    run := .stopped
    inTick := false
    acc := 0 }
  s.callCpu .reset

/-- POWER_ON (R270): the first event of the run, else it has no step (log 6). -/
def execPowerOn (s : State) : Result :=
  if s.started then .refused .powerOnNotFirst else .next s.powerOn

end Sys2Proof.Machine
end

