-- ==== Sys2Proof/Machine/Scheduler.lean ====
section
/-! DEFINITION. The scheduler and the direct commands: TICK, RUN_TOGGLE, RUN_START, RUN_STOP, RESET_CMD and INT_CMD (45_iobus_scheduler.md R214 to R222), and the return of a CPU step inside a tick (R215). -/

namespace Sys2Proof.Machine

/-- TICK (R214): nothing while Stopped; while Running the tick begins, and the CPU-step returns carry it on (R215). -/
def execTick (s : State) : Result := betweenTicks s (if s.run = .running then s.beginTick else s)

/-- RUN_TOGGLE (R216). -/
def execRunToggle (s : State) : Result :=
  betweenTicks s { s with run := if s.run = .running then .stopped else .running }

/-- RUN_START (R217). -/
def execRunStart (s : State) : Result := betweenTicks s { s with run := .running }

/-- RUN_STOP (R218). -/
def execRunStop (s : State) : Result := betweenTicks s { s with run := .stopped }

/-- RESET_CMD (R219): the CPU alone is reset. -/
def execResetCmd (s : State) : Result := betweenTicks s (s.callCpu .reset)

/-- INT_CMD (R220): the call is made, also while Stopped. -/
def execIntCmd (s : State) : Result := betweenTicks s (s.callCpu (.raiseInterrupt Config.intVector))

/-- The CPU step of a Running tick returns its cost (R215). Outside a tick there is no step to return from (log 3). -/
def cpuReturn (cost : Nat) (s : State) : Result :=
  if s.inTick then .next (s.stepReturned cost) else .refused .cpuReturnOutsideTick

end Sys2Proof.Machine
end

