-- ==== Sys2Proof/Machine/Dispatch.lean ====
section
/-! DEFINITION. The meaning of each instruction, one arm per row of spec/opcode_table.json. -/

namespace Sys2Proof.Machine

-- The arms stand in the order of the constructors of Instr.
def exec (i : Instr) (s : State) : Host.Outcome State Fault Refusal :=
  match i with
  | .memr a => Sys2Proof.Machine.execMemr a s
  | .memw a v => Sys2Proof.Machine.execMemw a v s
  | .memr16 a => Sys2Proof.Machine.execMemr16 a s
  | .memw16 a w => Sys2Proof.Machine.execMemw16 a w s
  | .iorKbd => Sys2Proof.Machine.execIorKbd s
  | .iowCath v => Sys2Proof.Machine.execIowCath v s
  | .iowSeg v => Sys2Proof.Machine.execIowSeg v s
  | .iowSave v => Sys2Proof.Machine.execIowSave v s
  | .iowLoad v => Sys2Proof.Machine.execIowLoad v s
  | .iorExpa => Sys2Proof.Machine.execIorExpa s
  | .iorExpb => Sys2Proof.Machine.execIorExpb s
  | .iowExpa v => Sys2Proof.Machine.execIowExpa v s
  | .iowExpb v => Sys2Proof.Machine.execIowExpb v s
  | .iowExpctl v => Sys2Proof.Machine.execIowExpctl v s
  | .iorFloat p => Sys2Proof.Machine.execIorFloat p s
  | .iowNop p v => Sys2Proof.Machine.execIowNop p v s
  | .tick => Sys2Proof.Machine.execTick s
  | .keyDown row code => Sys2Proof.Machine.execKeyDown row code s
  | .keyUp row => Sys2Proof.Machine.execKeyUp row s
  | .runToggle => Sys2Proof.Machine.execRunToggle s
  | .runStart => Sys2Proof.Machine.execRunStart s
  | .runStop => Sys2Proof.Machine.execRunStop s
  | .resetCmd => Sys2Proof.Machine.execResetCmd s
  | .intCmd => Sys2Proof.Machine.execIntCmd s
  | .powerOn => Sys2Proof.Machine.execPowerOn s

end Sys2Proof.Machine
end

