-- ==== Sys2Proof/Machine/Step.lean ====
section
/-! DEFINITION. One step: the next input of the queue is applied alone, on the state the last one left (20_memory.md R62, R64). -/

namespace Sys2Proof.Machine

/-- After an input has been applied, no event is the run's first any more (R270; log 6). -/
def afterInput : Result → Result
  | .next t => .next t.markStarted
  | .fault r => .fault r
  | .refused r => .refused r

/-- Apply a transaction word: decode it and run its meaning, or refuse it by name (R74, R75). A bus transaction is accepted
at any time (R248; log 4). -/
def applyWord (w : TxWord) (s : State) : Result :=
  match decode w with
  | .ok i => exec i s
  | .error why => .refused (.notATransaction why)

/-- One step. With nothing waiting the block idles: it takes no steps of its own (R9; log 2). -/
def step (s : State) : Host.Outcome State Fault Refusal :=
  match s.inputs with
  | [] => .next s
  | .word w :: _ => afterInput (applyWord w s.popInput)
  | .cpuReturn cost :: _ => afterInput (cpuReturn cost s.popInput)

/-- Put an instruction's word at the head of the input queue, where `step` takes its next one; the bits from `nbits` on are
0. It stands for the outside delivering that transaction or event (log 1). -/
def State.withFetchWord (s : State) (nbits w : Nat) : State :=
  { s with inputs := .word (BitVec.ofNat 40 (w % 2 ^ nbits)) :: s.inputs }

end Sys2Proof.Machine
end

