-- ==== Sys2Proof/Safety.lean ====
section
/-! DEFINITION. What the statements say of states and runs: the invariants of the block, what a renderer shows, which bytes of memory read as before, and a sequence of instructions applied in order. -/

namespace Sys2Proof.Machine

/-- A digit's `segs`, `decay` and `last_seen` belong together (10_state.md R26, R27). -/
structure Digit.Consistent (d : Digit) : Prop where
  /-- `segs[s] = (last_seen[s] = 0)`. -/
  segs_eq : ∀ k : Fin 7, d.segs[k] = !d.lastSeen.getLsbD k.val
  /-- `decay = 0` exactly when `last_seen = 0x7F`. -/
  blank_iff : d.decay = 0 ↔ d.lastSeen = 0x7F#7
  /-- `decay` is 0..50. -/
  decay_le : d.decay ≤ 50

/-- Every digit is consistent (R27). -/
def State.DisplayConsistent (s : State) : Prop := ∀ d : Fin 9, s.digits[d].Consistent

/-- What a renderer that has received a trace shows for one segment: the last state sent for it, off before any. -/
def shown (trace : List SegEvent) (d : Fin 9) (k : Fin 7) : Bool :=
  trace.foldl (fun on e => if e.digit = d ∧ e.seg = k then e.on else on) false

/-- The renderer shows exactly `segs` (R26: "as last sent to the renderer"). -/
def State.RendererAgrees (s : State) : Prop := ∀ (d : Fin 9) (k : Fin 7), s.digits[d].segs[k] = shown s.segTrace d k

/-- RAM and the persistent store are in their canonical form. -/
def State.Canonical (s : State) : Prop := s.ram.wf = true ∧ s.store.wf = true

/-- What power-on fixes for the whole run (R22, R29, R34). -/
def State.FixedForRun (s : State) : Prop :=
  s.rom = Config.romImage ∧ s.expPresent = Config.expPresent ∧ s.storeAvailable = Config.storeAvailable

/-- A tick runs only while Running, and below its budget (R214, R215). -/
def State.TickSound (s : State) : Prop := s.inTick = true → s.run = .running ∧ s.acc < 1100

/-- An absent expander is never called, and its directions stay as power-on left them (R190, R194, R197). -/
def State.AbsentExpanderUntouched (s : State) : Prop :=
  s.expPresent = false → s.expCalls = [] ∧ s.expDirA = .input ∧ s.expDirB = .input

/-- The invariant of the block: it holds at State.reset, and every step keeps it. -/
structure State.Inv (s : State) : Prop where
  canonical : s.Canonical
  fixed : s.FixedForRun
  display : s.DisplayConsistent
  renderer : s.RendererAgrees
  tick : s.TickSound
  expander : s.AbsentExpanderUntouched

/-- Every byte of the memory space reads as before. -/
def SameBytes (s t : State) : Prop := ∀ a : Addr, t.readByte a = s.readByte a

/-- Apply instructions in order, stopping at the first that has no step. -/
def execAll : List Instr → State → Result
  | [], s => .next s
  | i :: rest, s =>
    match exec i s with
    | .next t => execAll rest t
    | .fault r => .fault r
    | .refused r => .refused r

/-- The instruction is a bus transaction, not a host event (R16). -/
def isTransaction : Instr → Bool
  | .memr _ | .memw _ _ | .memr16 _ | .memw16 _ _ | .iorKbd | .iowCath _ | .iowSeg _ | .iowSave _ | .iowLoad _
  | .iorExpa | .iorExpb | .iowExpa _ | .iowExpb _ | .iowExpctl _ | .iorFloat _ | .iowNop _ _ => true
  | .tick | .keyDown _ _ | .keyUp _ | .runToggle | .runStart | .runStop | .resetCmd | .intCmd | .powerOn => false

/-- The word stands for a bus transaction. -/
def isTransactionWord (w : TxWord) : Bool :=
  match decode w with
  | .ok i => isTransaction i
  | .error _ => false

/-- What one CPU step delivers: its bus transactions in order, then its return with a cost (R215). -/
def stepInputs (cost : Nat) (words : List TxWord) : List Input := words.map .word ++ [.cpuReturn cost]

/-- What CPU steps of one cost deliver, each given by its words. -/
def stepsInputs (cost : Nat) (steps : List (List TxWord)) : List Input := steps.flatMap (stepInputs cost)

/-- The aging pass `n` times. -/
def agePasses : Nat → State → State
  | 0, s => s
  | n + 1, s => agePasses n s.agePass

end Sys2Proof.Machine
end

