-- ==== Sys2Proof/Certificates/Slice0/Obligations.lean ====
section
/-! DEFINITION. The statements for the provers. Each says whole what its docstring says; a docstring names the rule it formalises, or the spec's decision or the log entry it rests on. -/

open Sys2Proof Sys2Proof.Machine

/-! ## Encoding -/

/-- Decode and encode agree: for every well-formed instruction, with every operand value, the decoder reads the encoded
word back as that instruction (30_encoding.md sections 1 and 2; the word is the spec's own encoding, D1). -/
def Obligations.DecodeOfEncodeIsTheInstruction : Prop :=
  ∀ i : Instr, i.wf = true → decode (encode i) = .ok i

/-- Which words are no transaction, and why (30_encoding.md R75; D1): an unused class, a bus class with `sub` not 0, an unused
host event. Every other word is one. -/
def Obligations.DecodeRejectsExactlyTheNonTransactions : Prop :=
  ∀ w : TxWord,
    (decode w = .error .unusedClass ↔ w.cls.toNat = 6 ∨ w.cls.toNat = 7 ∨ 9 ≤ w.cls.toNat) ∧
    (decode w = .error .busSubNotZero ↔ w.cls.toNat ≤ 5 ∧ w.sub ≠ 0#4) ∧
    (decode w = .error .unusedHostEvent ↔ w.cls.toNat = 8 ∧ 9 ≤ w.sub.toNat)

/-- Two rows of one priority never claim the same word (30_encoding.md R74; D1). -/
def Obligations.RowsOfOnePriorityNeverOverlap : Prop :=
  ∀ r ∈ opcodeTable, ∀ q ∈ opcodeTable, r.priority = q.priority → r.mnemonic ≠ q.mnemonic →
    ∀ w : TxWord, ¬ (r.covers w = true ∧ q.covers w = true)

/-- Every port reaches exactly the handler the port map names, read and write independently, whatever the ignored bits
W[31:24] and W[15:8] hold (45_iobus_scheduler.md R210; the word is D1's). -/
def Obligations.EveryPortReachesItsHandler : Prop :=
  ∀ w : TxWord, w.sub = 0#4 →
    (w.cls = 4#4 → decode w = .ok
      (if w.port = 0xF4#8 then .iorExpa else if w.port = 0xF5#8 then .iorExpb
       else if w.port = 0xFA#8 then .iorKbd else .iorFloat w.port)) ∧
    (w.cls = 5#4 → decode w = .ok
      (if w.port = 0xF4#8 then .iowExpa w.byte else if w.port = 0xF5#8 then .iowExpb w.byte
       else if w.port = 0xF7#8 then .iowExpctl w.byte else if w.port = 0xF8#8 then .iowSeg w.byte
       else if w.port = 0xFA#8 then .iowCath w.byte else if w.port = 0x5A#8 then .iowSave w.byte
       else if w.port = 0xAD#8 then .iowLoad w.byte else .iowNop w.port w.byte))

/-- Words written out in 95_test_vectors.md section 2 decode to the transactions and events named beside them. -/
def Obligations.TestVectorWordsDecode : Prop :=
  decode 0x0023FF0000#40 = .ok (.memr 0x23FF#16) ∧ decode 0x10E1230077#40 = .ok (.memw 0xE123#16 0x77#8) ∧
  decode 0x2010000000#40 = .ok (.memr16 0x1000#16) ∧ decode 0x301FFFBEEF#40 = .ok (.memw16 0x1FFF#16 0xBEEF#16) ∧
  decode 0x5000FA00FD#40 = .ok (.iowCath 0xFD#8) ∧ decode 0x4012FA0000#40 = .ok .iorKbd ∧
  decode 0x5000F8007F#40 = .ok (.iowSeg 0x7F#8) ∧ decode 0x5000F70090#40 = .ok (.iowExpctl 0x90#8) ∧
  decode 0x5000FB008A#40 = .ok (.iowNop 0xFB#8 0x8A#8) ∧ decode 0x40005A0000#40 = .ok (.iorFloat 0x5A#8) ∧
  decode 0x810000025F#40 = .ok (.keyDown 2#8 0x5F#8) ∧ decode 0x8800000000#40 = .ok .powerOn ∧
  decode 0x0100000000#40 = .error .busSubNotZero ∧ decode 0x8900000000#40 = .error .unusedHostEvent

/-! ## The step -/

/-- A step runs the decoded instruction: when the next input is a word that decodes to `i` (well formed or not), the step is
`exec i` on the state without that input, with `started` set; when it decodes to nothing, the step refuses by name. That
inputs wait in a queue is the model's choice (log 1), `started` too (log 6). -/
def Obligations.StepRunsTheDecodedInstruction : Prop :=
  ∀ (s : State) (w : TxWord) (rest : List Input), s.inputs = .word w :: rest →
    (∀ i, decode w = .ok i →
      step s = match exec i { s with inputs := rest } with
        | .next t => .next { t with started := true }
        | .fault r => .fault r
        | .refused r => .refused r) ∧
    (∀ why, decode w = .error why → step s = .refused (.notATransaction why))

/-- With nothing waiting a step changes nothing: the block takes no steps of its own (00_scope.md R9). That such a step
answers the same state is the model's choice (log 2). -/
def Obligations.StepIdlesWithNothingWaiting : Prop :=
  ∀ s : State, s.inputs = [] → step s = .next s

/-- No step faults, and every bus transaction completes in every state (60_exceptions.md R240). -/
def Obligations.NoFaultAndEveryTransactionCompletes : Prop :=
  (∀ (s : State) (r : Fault), step s ≠ .fault r) ∧
  ∀ (s : State) (i : Instr),
    i ∉ [Instr.tick, .runToggle, .runStart, .runStop, .resetCmd, .intCmd, .powerOn] →
    (∀ row code, i ≠ .keyDown row code) → (∀ row, i ≠ .keyUp row) → ∃ t, exec i s = .next t

/-! ## Memory -/

/-- MEMR returns ROM below ROM_SIZE and else the RAM byte at `a & 0x1FFF`, in every state; nothing else changes (R100). -/
def Obligations.MemrReadsRomBelowItsSizeElseRam : Prop :=
  ∀ (a : Addr) (s : State), ∃ t, exec (.memr a) s = .next t ∧
    t = { s with returned := s.returned ++
      [.byte (if h : a.toNat < s.rom.length then s.rom[a.toNat] else s.ram.read (a &&& 0x1FFF#16).toNat)] } ∧
    SameBytes s t

/-- MEMW sets the one RAM byte at `a & 0x1FFF`, at ROM addresses too; ROM reads as before, every alias of the byte that is not
in ROM reads the new value, every other byte reads as before, and nothing else changes (R101). -/
def Obligations.MemwWritesTheMaskedRamByte : Prop :=
  ∀ (a : Addr) (v : Byte) (s : State), ∃ t, exec (.memw a v) s = .next t ∧
    t = { s with ram := t.ram } ∧
    (∀ o, t.ram.read o = if o = (a &&& 0x1FFF#16).toNat then v else s.ram.read o) ∧
    (∀ b : Addr, t.readByte b =
      if b.toNat < s.rom.length then s.readByte b
      else if b &&& 0x1FFF#16 = a &&& 0x1FFF#16 then v else s.readByte b)

/-- MEMR16 returns the byte at `a` as the low byte and the byte at `(a + 1) mod 2^16` as the high byte, at any address; nothing
else changes (R102; the wrap at 0xFFFF is the spec's decision D5, log 20). -/
def Obligations.Memr16ReadsLittleEndian : Prop :=
  ∀ (a : Addr) (s : State), ∃ t, exec (.memr16 a) s = .next t ∧
    t = { s with returned := s.returned ++ [.word (s.readByte (a + 1#16) ++ s.readByte a)] } ∧ SameBytes s t

/-- MEMW16 sets the RAM byte at `a` to the word's low byte and the one at `(a + 1) mod 2^16` to its high byte, both masked;
every other byte reads as before, and nothing else changes (R103). -/
def Obligations.Memw16WritesLowThenHighByte : Prop :=
  ∀ (a : Addr) (w : Word) (s : State), ∃ t, exec (.memw16 a w) s = .next t ∧
    t = { s with ram := t.ram } ∧
    (∀ o, t.ram.read o =
      if o = ((a + 1#16) &&& 0x1FFF#16).toNat then (w >>> 8).setWidth 8
      else if o = (a &&& 0x1FFF#16).toNat then w.setWidth 8 else s.ram.read o) ∧
    (∀ b : Addr, t.readByte b =
      if b.toNat < s.rom.length then s.readByte b
      else if b &&& 0x1FFF#16 = (a + 1#16) &&& 0x1FFF#16 then (w >>> 8).setWidth 8
      else if b &&& 0x1FFF#16 = a &&& 0x1FFF#16 then w.setWidth 8 else s.readByte b)

/-- ROM is immutable: it holds ROM_IMAGE at power-on, every step keeps it, and MEMR below ROM_SIZE then returns
`ROM_IMAGE[a]` (R104). -/
def Obligations.RomIsImmutable : Prop :=
  State.reset.rom = Config.romImage ∧
  ∀ s t : State, s.rom = Config.romImage → step s = .next t →
    t.rom = Config.romImage ∧
    ∀ a : Addr, a.toNat < Config.romSize →
      exec (.memr a) t = .next { t with returned := t.returned ++ [.byte (Config.romByte a.toNat)] }

/-- MEMW at `a` followed by MEMR at `a & 0x1FFF` returns the written byte, or ROM where `a & 0x1FFF` is below ROM_SIZE (R105). -/
def Obligations.WriteThenReadAtTheMaskedAddress : Prop :=
  ∀ (a : Addr) (v : Byte) (s : State), ∃ t u,
    exec (.memw a v) s = .next t ∧ exec (.memr (a &&& 0x1FFF#16)) t = .next u ∧
    u.returned = s.returned ++
      [.byte (if h : (a &&& 0x1FFF#16).toNat < s.rom.length then s.rom[(a &&& 0x1FFF#16).toNat] else v)]

/-- The RAM window appears eight times: a byte written through one alias is read through every alias that is not below
ROM_SIZE, the ROM shadow too (20_memory.md section 1, R52, which the spec derives). -/
def Obligations.EveryAliasReadsTheWrittenByte : Prop :=
  ∀ (s : State) (o : Nat) (j k : Fin 8) (v : Byte), o < 0x2000 → s.rom.length ≤ k.val * 0x2000 + o →
    ∃ t, exec (.memw (BitVec.ofNat 16 (j.val * 0x2000 + o)) v) s = .next t ∧
      t.readByte (BitVec.ofNat 16 (k.val * 0x2000 + o)) = v

/-! ## Keyboard and strobe -/

/-- IOR_KBD returns the key row `cathode` selects, or 0x7F when it selects none; nothing else changes (R123). -/
def Obligations.IorKbdReturnsTheSelectedRow : Prop :=
  ∀ s : State, ∃ t, exec .iorKbd s = .next t ∧
    t = { s with returned := s.returned ++
      [.byte (if h : s.cathode.toNat < 9 then s.keyRow[s.cathode.toNat] else 0x7F#8)] } ∧ SameBytes s t

/-- IOW_CATH sets `cathode` to `15 - (v & 0x0F)`; no digit, key row or byte of memory changes, nor anything else (R124). -/
def Obligations.IowCathSelectsTheComplement : Prop :=
  ∀ (v : Byte) (s : State), ∃ t, exec (.iowCath v) s = .next t ∧
    t = { s with cathode := t.cathode } ∧ t.cathode.toNat = 15 - v.toNat % 16 ∧ SameBytes s t

/-- KEY_DOWN between ticks replaces the whole byte of its row 0..8 and changes nothing else (R120; its refusals are the spec's
decisions D13 and D25, log 5). -/
def Obligations.KeyDownReplacesItsRow : Prop :=
  ∀ (row code : Byte) (s : State), row.toNat < 9 → s.inTick = false → ∃ t, exec (.keyDown row code) s = .next t ∧
    t = { s with keyRow := t.keyRow } ∧
    (∀ r : Fin 9, t.keyRow[r] = if r.val = row.toNat then code else s.keyRow[r]) ∧ SameBytes s t

/-- KEY_UP between ticks sets its row 0..8 to 0x7F and changes nothing else (R121; its refusals are D13 and D25, log 5). -/
def Obligations.KeyUpIdlesItsRow : Prop :=
  ∀ (row : Byte) (s : State), row.toNat < 9 → s.inTick = false → ∃ t, exec (.keyUp row) s = .next t ∧
    t = { s with keyRow := t.keyRow } ∧
    (∀ r : Fin 9, t.keyRow[r] = if r.val = row.toNat then 0x7F#8 else s.keyRow[r]) ∧ SameBytes s t

/-- A key event whose row is 9 or more has no step, nor has one inside a tick (R120, R121; decisions D13 and D25; which
refusal is named when both hold is the model's choice, log 5). -/
def Obligations.KeyEventsAreRefusedOutOfRangeOrInsideATick : Prop :=
  ∀ (row code : Byte) (s : State),
    (9 ≤ row.toNat → exec (.keyDown row code) s = .refused .keyRowOutOfRange ∧
      exec (.keyUp row) s = .refused .keyRowOutOfRange) ∧
    (row.toNat < 9 → s.inTick = true → exec (.keyDown row code) s = .refused .hostEventInTick ∧
      exec (.keyUp row) s = .refused .hostEventInTick)

/-- Keyboard round trip: a key pressed in a row, then that row selected and read, returns its code; released and read
again, 0x7F. For every row and code, the row 2 and the code 0x5F among them (R126). -/
def Obligations.KeyboardRoundTrip : Prop :=
  ∀ (r : Fin 9) (code : Byte) (s : State), s.inTick = false →
    ∃ t u, execAll [.keyDown (BitVec.ofNat 8 r) code, .iowCath (0xFF#8 - BitVec.ofNat 8 r), .iorKbd] s = .next t ∧
      t.returned = s.returned ++ [.byte code] ∧
      execAll [.keyUp (BitVec.ofNat 8 r), .iorKbd] t = .next u ∧ u.returned = t.returned ++ [.byte 0x7F#8]

/-- Two key events to one row are collapsed to the latest: the second alone leaves the same state. Presses are never merged
(R122). -/
def Obligations.KeyEventsToOneRowCollapse : Prop :=
  ∀ (row c c' : Byte) (s : State), row.toNat < 9 → s.inTick = false →
    execAll [.keyDown row c, .keyDown row c'] s = exec (.keyDown row c') s ∧
    execAll [.keyUp row, .keyDown row c'] s = exec (.keyDown row c') s ∧
    execAll [.keyDown row c, .keyUp row] s = exec (.keyUp row) s ∧
    execAll [.keyUp row, .keyUp row] s = exec (.keyUp row) s

/-! ## Display -/

/-- A blank pattern written to the display changes nothing at all (R143). -/
def Obligations.BlankWriteChangesNothing : Prop :=
  ∀ (v : Byte) (s : State), v &&& 0x7F#8 = 0x7F#8 → exec (.iowSeg v) s = .next s

/-- IOW_SEG with a pattern that is not blank: the digit `cathode` selects holds that pattern and a decay of 50, and its seven
segment states are set and sent, ascending, exactly when the pattern differs from the one last painted. With `cathode`
9..15 nothing changes. No other digit changes, no byte of memory, nothing else (R140; the missing digit is D8, the order of
emission D39). -/
def Obligations.IowSegRefreshesTheSelectedDigit : Prop :=
  ∀ (v : Byte) (s : State), v &&& 0x7F#8 ≠ 0x7F#8 →
    (∀ d : Fin 9, s.cathode.toNat = d.val → ∃ t, exec (.iowSeg v) s = .next t ∧
      t = { s with digits := t.digits, segTrace := t.segTrace } ∧
      t.digits[d].decay = 50 ∧ t.digits[d].lastSeen = v.setWidth 7 ∧
      (∀ k : Fin 7, t.digits[d].segs[k] =
        if v.setWidth 7 = s.digits[d].lastSeen then s.digits[d].segs[k] else !v.getLsbD k.val) ∧
      (∀ j : Fin 9, j ≠ d → t.digits[j] = s.digits[j]) ∧
      t.segTrace = s.segTrace ++ (if v.setWidth 7 = s.digits[d].lastSeen then []
        else ([0, 1, 2, 3, 4, 5, 6] : List (Fin 7)).map fun k => ⟨d, k, !v.getLsbD k.val⟩) ∧
      SameBytes s t) ∧
    (9 ≤ s.cathode.toNat → exec (.iowSeg v) s = .next s)

/-- Paint only on change: the first of two writes of one pattern sends seven events when it differs from the pattern last
painted and none when it does not, the second sends none, and both set the decay to 50 (R144). -/
def Obligations.RepeatedPatternPaintsOnce : Prop :=
  ∀ (v : Byte) (s : State) (d : Fin 9), v &&& 0x7F#8 ≠ 0x7F#8 → s.cathode.toNat = d.val →
    ∃ t u, exec (.iowSeg v) s = .next t ∧ exec (.iowSeg v) t = .next u ∧
      t.digits[d].decay = 50 ∧ u.digits[d].decay = 50 ∧ u.segTrace = t.segTrace ∧
      t.segTrace.length = s.segTrace.length + (if s.digits[d].lastSeen = v.setWidth 7 then 0 else 7)

/-- One aging pass: a digit with decay 0 is untouched; one with decay 1 goes dark, sends its seven segments off and shows the
blank pattern; any other counts down by one. The digits that go dark send in ascending order, and nothing else changes
(42_display.md R141). -/
def Obligations.AgingPassCountsDownAndBlanks : Prop :=
  ∀ s : State,
    (∀ d : Fin 9, s.agePass.digits[d] =
      if s.digits[d].decay = 0 then s.digits[d]
      else if s.digits[d].decay = 1 then { segs := Vector.replicate 7 false, decay := 0, lastSeen := 0x7F#7 }
      else { s.digits[d] with decay := s.digits[d].decay - 1 }) ∧
    s.agePass.segTrace = s.segTrace ++
      ((List.finRange 9).filter fun d => s.digits[d].decay = 1).flatMap
        (fun d => (List.finRange 7).map fun k => ⟨d, k, false⟩) ∧
    s.agePass = { s with digits := s.agePass.digits, segTrace := s.agePass.segTrace }

/-- Decay length: after a pattern that is not blank is written to a digit, 49 aging passes leave it lit with a decay of 1, the
50th blanks it (42_display.md R145, whose restatement in ticks the spec derives). -/
def Obligations.FiftyPassesBlankADigitAndFortyNineDoNot : Prop :=
  ∀ (v : Byte) (s : State) (d : Fin 9), v &&& 0x7F#8 ≠ 0x7F#8 → s.cathode.toNat = d.val →
    ∃ t, exec (.iowSeg v) s = .next t ∧
      (agePasses 49 t).digits[d] = { t.digits[d] with decay := 1 } ∧ t.digits[d].lastSeen = v.setWidth 7 ∧
      (agePasses 50 t).digits[d] = { segs := Vector.replicate 7 false, decay := 0, lastSeen := 0x7F#7 }

/-- Every step keeps the display file's invariant: `segs` follows `last_seen`, `decay` is 0 exactly for the blank pattern and
never over 50 (10_state.md R26 and R27, which the spec derives). -/
def Obligations.StepKeepsTheDisplayConsistent : Prop :=
  ∀ s t : State, s.DisplayConsistent → step s = .next t → t.DisplayConsistent

/-- Every step keeps the renderer in agreement: replaying all the events sent shows exactly `segs` of every digit (10_state.md
R26 "as last sent to the renderer", R28; that the trace is observable is D39). -/
def Obligations.StepKeepsTheRendererInAgreement : Prop :=
  ∀ s t : State, s.RendererAgrees → step s = .next t → t.RendererAgrees

/-! ## Block store -/

/-- The parameter cells: `length = ((~lo) & 0xFF) + 1 = 256 - lo`, 1..256; `start = (hi << 8) | lo`; so
`start + length = (hi + 1) * 256`; `id` verbatim (R80). -/
def Obligations.BlockParametersComeFromTheCells : Prop :=
  ∀ s : State,
    s.blockParams.id = s.ram.read 0x1FFA ∧
    s.blockParams.length = (~~~ s.ram.read 0x1FF8).toNat + 1 ∧
    s.blockParams.length = 256 - (s.ram.read 0x1FF8).toNat ∧
    1 ≤ s.blockParams.length ∧ s.blockParams.length ≤ 256 ∧
    s.blockParams.start = ((s.ram.read 0x1FF9).setWidth 16 <<< 8 ||| (s.ram.read 0x1FF8).setWidth 16 : BitVec 16).toNat ∧
    s.blockParams.start + s.blockParams.length = ((s.ram.read 0x1FF9).toNat + 1) * 256

/-- IOW_SAVE with the start-high cell below 0x20: the store is asked to write the `256 - lo` RAM bytes from the start address
under the block's name. If that call fails the CPU goes to VEC_ERR and only that object may have changed; else the object
is exactly those bytes and the CPU goes to VEC_OK. No byte of memory changes, and nothing else (R164, R166, R168; store
failures are the spec's draws D19, D20: log 12). -/
def Obligations.IowSaveStoresTheRange : Prop :=
  ∀ (v : Byte) (s : State), (s.ram.read 0x1FF9).toNat < 0x20 →
    ∃ t bytes, exec (.iowSave v) s = .next t ∧
      bytes.length = 256 - (s.ram.read 0x1FF8).toNat ∧
      (∀ i (h : i < bytes.length),
        bytes[i] = s.ram.read ((s.ram.read 0x1FF9).toNat * 256 + (s.ram.read 0x1FF8).toNat + i)) ∧
      t = { s with
        store := t.store
        storeCalls := s.storeCalls ++ [.write (Config.blockName (s.ram.read 0x1FFA)) bytes]
        draws := s.draws + 1
        cpuCalls := s.cpuCalls ++ [.setProgramCounter (if s.storeFails then Config.vecErr else Config.vecOk)] } ∧
      t.store.get (Config.blockName (s.ram.read 0x1FFA)) =
        (if s.storeFails then Config.storeAfterFailedWrite s.draws else some bytes) ∧
      (∀ n, n ≠ Config.blockName (s.ram.read 0x1FFA) → t.store.get n = s.store.get n) ∧ SameBytes s t

/-- IOW_SAVE with the start-high cell at 0x20 or more: an address range error. The CPU goes to VEC_ERR, and nothing else happens:
no store call, no change (R164, R166; the exact arithmetic is D33). -/
def Obligations.IowSaveOutOfRangeTouchesNothing : Prop :=
  ∀ (v : Byte) (s : State), 0x20 ≤ (s.ram.read 0x1FF9).toNat →
    exec (.iowSave v) s = .next { s with cpuCalls := s.cpuCalls ++ [.setProgramCounter Config.vecErr] }

/-- IOW_LOAD, every outcome: a failed lookup, an absent object and an object that does not fit send the CPU to VEC_ERR with RAM
unchanged; a failed read leaves draws in the target range and sends it to VEC_ERR; else the object's bytes stand from the
start address on, every other RAM byte is as before, and the CPU goes to VEC_OK. The store and everything else are unchanged
(R165, R167, R168; store failures are the spec's draws D19, D42: log 12; the load's start is D14). -/
def Obligations.IowLoadCopiesTheObjectOrGoesToTheErrorVector : Prop :=
  ∀ (v : Byte) (s : State), ∃ t, exec (.iowLoad v) s = .next t ∧
    let name := Config.blockName (s.ram.read 0x1FFA)
    let start := (s.ram.read 0x1FF9).toNat * 256 + (s.ram.read 0x1FF8).toNat
    let asked : State := { s with storeCalls := s.storeCalls ++ [.lookup name], draws := s.draws + 1 }
    let failed : State := { asked with cpuCalls := s.cpuCalls ++ [.setProgramCounter Config.vecErr] }
    if s.storeFails then t = failed
    else match s.store.get name with
      | none => t = failed
      | some bytes =>
        if 8192 < start + bytes.length then t = failed
        else if asked.storeFails then
          t = { failed with
            ram := t.ram
            storeCalls := s.storeCalls ++ [.lookup name, .read name]
            draws := s.draws + 2 + bytes.length } ∧
          ∀ o, t.ram.read o =
            if start ≤ o ∧ o < start + bytes.length then Config.ramAfterFailedRead (s.draws + 2 + (o - start))
            else s.ram.read o
        else
          t = { s with
            ram := t.ram
            storeCalls := s.storeCalls ++ [.lookup name, .read name]
            draws := s.draws + 2
            cpuCalls := s.cpuCalls ++ [.setProgramCounter Config.vecOk] } ∧
          ∀ o, t.ram.read o =
            if h : start ≤ o ∧ o < start + bytes.length then bytes[o - start]'(by omega) else s.ram.read o

/-- Save then load restores: a save in range, then, whatever happened to the RAM and the draws in between, a load of the same
id to the same start: if no store call fails, the save reports Ok and the load reports Ok(n) and every byte of the range is
what was saved; a store call that fails reports IOError. Start 0x1000 comes, through the bus triggers, only with the length
256 (R171). -/
def Obligations.SaveThenLoadRestoresTheBytes : Prop :=
  (∀ (s u : State) (id : Byte) (start n : Nat), start + n ≤ 8192 →
    u.store = (s.save id start n).2.store →
    if s.storeFails then (s.save id start n).1 = .err .ioError
    else (s.save id start n).1 = .ok ∧
      if u.storeFails then (u.load id start).1 = .err .ioError
      else if (u.callStore (.lookup (Config.blockName id))).storeFails then (u.load id start).1 = .err .ioError
      else (u.load id start).1 = .okBytes n ∧
        ∀ o, start ≤ o → o < start + n → (u.load id start).2.ram.read o = s.ram.read o) ∧
  ∀ lo hi : Byte, blockStart lo hi = 0x1000 → lo = 0#8 ∧ blockLength lo = 256

/-- A save that would exceed the window returns AddressRangeError and changes nothing, the store among it; `save(1, 0x1FF0, 32)`
is one (R172). For every start and length this is R166's check in R163's exact arithmetic, which is the spec's own decision
D33 (log 19). -/
def Obligations.SaveOverTheWindowIsARangeError : Prop :=
  (∀ s : State, s.save 1#8 0x1FF0 32 = (.err .addressRange, s)) ∧
  ∀ (s : State) (id : Byte) (start n : Nat), 8192 < start + n → s.save id start n = (.err .addressRange, s)

/-- A load of an id the store holds no object for returns NotFound (or IOError when the store fails the lookup), and leaves
RAM and the store unchanged (R173; the store's failures are D19). -/
def Obligations.LoadOfAnAbsentObjectIsNotFound : Prop :=
  ∀ (s : State) (id : Byte) (start : Nat), s.store.get (Config.blockName id) = none →
    (s.load id start).1 = (if s.storeFails then .err .ioError else .err .notFound) ∧
    (s.load id start).2.ram = s.ram ∧ (s.load id start).2.store = s.store

/-- With the store unavailable both triggers complete and send the CPU to VEC_ERR, as their last call, and no byte of memory
changes (43_block_store.md R168; that an unavailable store fails every call is D19). -/
def Obligations.UnavailableStoreGoesToTheErrorVector : Prop :=
  ∀ (v : Byte) (s : State), s.storeAvailable = false →
    (∃ t, exec (.iowSave v) s = .next t ∧ SameBytes s t ∧
      t.cpuCalls = s.cpuCalls ++ [.setProgramCounter Config.vecErr]) ∧
    (∃ t, exec (.iowLoad v) s = .next t ∧ SameBytes s t ∧
      t.cpuCalls = s.cpuCalls ++ [.setProgramCounter Config.vecErr])

/-- Vector redirection saves nothing: it is one call that sets the CPU's program counter, to VEC_OK for a result Ok or Ok(n)
and to VEC_ERR for every error, and nothing else changes; the two cases are those of the result's code, 0 or not (R245,
R168, R241: the redirection as the rules give it, less what the CPU then does). -/
def Obligations.RedirectionOnlySetsTheProgramCounter : Prop :=
  ∀ (s : State) (n : Nat) (e : ErrorKind),
    s.redirect .ok = { s with cpuCalls := s.cpuCalls ++ [.setProgramCounter Config.vecOk] } ∧
    s.redirect (.okBytes n) = { s with cpuCalls := s.cpuCalls ++ [.setProgramCounter Config.vecOk] } ∧
    s.redirect (.err e) = { s with cpuCalls := s.cpuCalls ++ [.setProgramCounter Config.vecErr] } ∧
    ∀ r : BlockResult, s.redirect r = { s with
      cpuCalls := s.cpuCalls ++ [.setProgramCounter (if r.code = 0 then Config.vecOk else Config.vecErr)] }

/-! ## Expansion port -/

/-- With the expander absent: reads of its ports return 0xFF, and writes to its ports and control words change nothing
(R196; the same for port B and the control word). -/
def Obligations.AbsentExpanderFloatsAndDropsWrites : Prop :=
  ∀ (v : Byte) (s : State), s.expPresent = false →
    exec .iorExpa s = .next { s with returned := s.returned ++ [.byte 0xFF#8] } ∧
    exec .iorExpb s = .next { s with returned := s.returned ++ [.byte 0xFF#8] } ∧
    exec (.iowExpa v) s = .next s ∧ exec (.iowExpb v) s = .next s ∧ exec (.iowExpctl v) s = .next s

/-- With the expander present: a read calls the chip and returns its answer, a fresh draw; a write is forwarded whatever the
port's direction; nothing else changes (R191, R192, R193, R195; the answer is the spec's draw D23, log 11). -/
def Obligations.PresentExpanderIsReadAndWritten : Prop :=
  ∀ (v : Byte) (s : State), s.expPresent = true →
    exec .iorExpa s = .next { s with
      returned := s.returned ++ [.byte (Config.expInput s.draws)]
      expCalls := s.expCalls ++ [.read .a], draws := s.draws + 1 } ∧
    exec .iorExpb s = .next { s with
      returned := s.returned ++ [.byte (Config.expInput s.draws)]
      expCalls := s.expCalls ++ [.read .b], draws := s.draws + 1 } ∧
    exec (.iowExpa v) s = .next { s with expCalls := s.expCalls ++ [.write .a v] } ∧
    exec (.iowExpb v) s = .next { s with expCalls := s.expCalls ++ [.write .b v] }

/-- The control word with the expander present: bit 7 clear changes nothing; bit 7 set makes port A's direction bit 4 and port
B's bit 1 (1 = IN), tells the chip A then B, and changes nothing else (R194, R79; the bit positions are the spec's decision
D21, log 15). -/
def Obligations.ControlWordSetsBothDirections : Prop :=
  ∀ (v : Byte) (s : State), s.expPresent = true →
    (v.getLsbD 7 = false → exec (.iowExpctl v) s = .next s) ∧
    (v.getLsbD 7 = true →
      let a := if v.getLsbD 4 then Direction.input else .output
      let b := if v.getLsbD 1 then Direction.input else .output
      exec (.iowExpctl v) s = .next { s with
        expDirA := a, expDirB := b, expCalls := s.expCalls ++ [.setDir .a a, .setDir .b b] })

/-! ## Unmapped ports -/

/-- A read of a port without a read handler returns 0xFF, a write to a port without a write handler has no effect, in every
state (R211, R212). -/
def Obligations.UnmappedPortsFloatAndIgnore : Prop :=
  ∀ (p : Port) (v : Byte) (s : State),
    exec (.iorFloat p) s = .next { s with returned := s.returned ++ [.byte 0xFF#8] } ∧
    exec (.iowNop p v) s = .next s

/-! ## Scheduler and direct commands -/

/-- TICK between ticks: while Stopped nothing changes; while Running the tick begins, `acc` is 0 and the first CPU step is called
(R214, R215; D25, D26). -/
def Obligations.TickBeginsOnlyWhileRunning : Prop :=
  ∀ s : State, s.inTick = false →
    (s.run = .stopped → exec .tick s = .next s) ∧
    (s.run = .running → exec .tick s = .next { s with inTick := true, acc := 0, cpuCalls := s.cpuCalls ++ [.step] })

/-- A CPU step returns its cost inside a tick: below the budget of 1100 the next CPU step is called; at or above it the display
ages once and the tick ends, the overshoot dropped. Nothing else changes but the queue and `started`. Outside a tick it is
refused (R214, R215; D26, D38; that the return is an input of the queue is the model's choice, log 3). -/
def Obligations.CpuReturnTestsTheBudget : Prop :=
  ∀ (s : State) (cost : Nat) (rest : List Input), s.inputs = .cpuReturn cost :: rest →
    (s.inTick = true → s.acc + cost < 1100 → step s = .next { s with
      inputs := rest, started := true, acc := s.acc + cost, cpuCalls := s.cpuCalls ++ [.step] }) ∧
    (s.inTick = true → 1100 ≤ s.acc + cost → step s = .next { s with
      inputs := rest, started := true, acc := s.acc + cost, inTick := false
      digits := s.agePass.digits, segTrace := s.agePass.segTrace }) ∧
    (s.inTick = false → step s = .refused .cpuReturnOutsideTick)

/-- With a constant cost `c >= 1` a Running tick runs `ceil(1100 / c)` CPU steps, 11 of them for 100, whatever bus
transactions each step issues: up to the last step's return the tick is on, with that return it has ended, and what ends it
is one aging pass of the state before the return. Without transactions that is the pass of the first state, and the CPU is
called for nothing else (R221; the queue is the model's, log 1 and log 3). -/
def Obligations.ConstantCostTickRunsTheCeilingOfTheBudget : Prop :=
  (1100 + 100 - 1) / 100 = 11 ∧
  ∀ (s : State) (c : Nat) (steps : List (List TxWord)) (rest : List Input), 1 ≤ c → s.inTick = false → s.run = .running →
    steps.length = (1100 + c - 1) / c → (∀ ws ∈ steps, ∀ w ∈ ws, isTransactionWord w = true) →
    s.inputs = .word 0x8000000000#40 :: (stepsInputs c steps ++ rest) →
    (∀ k, 1 ≤ k → k ≤ (stepsInputs c steps).length →
      ∃ u, Sys2Proof.core.run k s = .next u ∧ u.inTick = true ∧ u.run = .running) ∧
    ∃ u t, Sys2Proof.core.run (stepsInputs c steps).length s = .next u ∧
      Sys2Proof.core.run ((stepsInputs c steps).length + 1) s = .next t ∧
      t.inTick = false ∧ t.run = .running ∧ t.inputs = rest ∧ t.acc = steps.length * c ∧
      t.cpuCalls.count .step = s.cpuCalls.count .step + steps.length ∧
      t.digits = u.agePass.digits ∧ t.segTrace = u.agePass.segTrace ∧
      (steps.flatten = [] → t.digits = s.agePass.digits ∧ t.segTrace = s.agePass.segTrace ∧
        t.cpuCalls = s.cpuCalls ++ List.replicate steps.length .step)

/-- A tick whose CPU steps all cost nothing never ends, whatever bus transactions they issue: after each transaction and
each return it is still on with the same `acc`, and every return calls one more step. Without transactions the digits and
the events sent stay as they are (R215; the hang is D29; the queue is the model's, log 1 and log 3). -/
def Obligations.ZeroCostTickNeverEnds : Prop :=
  ∀ (s : State) (steps : List (List TxWord)) (rest : List Input), s.inTick = true → s.acc < 1100 →
    (∀ ws ∈ steps, ∀ w ∈ ws, isTransactionWord w = true) → s.inputs = stepsInputs 0 steps ++ rest →
    (∀ k ≤ (stepsInputs 0 steps).length,
      ∃ u, Sys2Proof.core.run k s = .next u ∧ u.inTick = true ∧ u.acc = s.acc) ∧
    ∃ t, Sys2Proof.core.run (stepsInputs 0 steps).length s = .next t ∧ t.inputs = rest ∧
      t.cpuCalls.count .step = s.cpuCalls.count .step + steps.length ∧
      (steps.flatten = [] → t.digits = s.digits ∧ t.segTrace = s.segTrace)

/-- RUN_TOGGLE between ticks flips the run state and changes nothing else: no CPU call is made (R216). -/
def Obligations.RunToggleFlipsTheRunState : Prop :=
  ∀ s : State, s.inTick = false →
    (s.run = .running → exec .runToggle s = .next { s with run := .stopped }) ∧
    (s.run = .stopped → exec .runToggle s = .next { s with run := .running })

/-- RUN_STOP between ticks stops, from either run state, and changes nothing else; again, it changes nothing (R218). -/
def Obligations.RunStopStopsAndIsIdempotent : Prop :=
  ∀ s : State, s.inTick = false →
    exec .runStop s = .next { s with run := .stopped } ∧ (s.run = .stopped → exec .runStop s = .next s)

/-- RUN_START between ticks makes the run state Running, from either, and changes nothing else (R217; the event is D35's). -/
def Obligations.RunStartRuns : Prop :=
  ∀ s : State, s.inTick = false → exec .runStart s = .next { s with run := .running }

/-- RESET_CMD between ticks resets the CPU and changes nothing in the block, the run state among it (R219; D28). -/
def Obligations.ResetCommandOnlyResetsTheCpu : Prop :=
  ∀ s : State, s.inTick = false → exec .resetCmd s = .next { s with cpuCalls := s.cpuCalls ++ [.reset] }

/-- INT_CMD between ticks hands INT_VECTOR to the CPU once, in either run state, and changes nothing in the block (R220; D27). -/
def Obligations.InterruptCommandOnlyCallsTheCpu : Prop :=
  ∀ s : State, s.inTick = false →
    exec .intCmd s = .next { s with cpuCalls := s.cpuCalls ++ [.raiseInterrupt Config.intVector] }

/-- Inside a tick none of the timer, run, reset and interrupt events has a step (20_memory.md R65, D25). -/
def Obligations.HostEventsAreRefusedInsideATick : Prop :=
  ∀ (s : State) (i : Instr), s.inTick = true →
    i ∈ [Instr.tick, .runToggle, .runStart, .runStop, .resetCmd, .intCmd] → exec i s = .refused .hostEventInTick

/-- Once the run has begun, the run state changes only by a run command: Stopped is left only by RUN_TOGGLE or RUN_START,
Running only by RUN_TOGGLE or RUN_STOP (60_exceptions.md R249). -/
def Obligations.OnlyRunCommandsChangeTheRunState : Prop :=
  ∀ s t : State, s.started = true → step s = .next t → t.run ≠ s.run →
    ∃ w rest, s.inputs = .word w :: rest ∧
      (decode w = .ok .runToggle ∨ (decode w = .ok .runStart ∧ t.run = .running) ∨
        (decode w = .ok .runStop ∧ t.run = .stopped))

/-- Once the run has begun, each piece of state is written only by its own transactions and events: `cathode` by IOW_CATH,
the key rows by KEY_DOWN and KEY_UP, the directions by IOW_EXPCTL, the store by IOW_SAVE, RAM by MEMW, MEMW16 and IOW_LOAD;
ROM, `exp_present` and `store_available` by none; the digits and `seg_trace` by IOW_SEG and by a tick's last CPU-step
return; `in_tick` and `acc` by TICK and by a CPU-step return inside a tick; `run` by the run commands (10_state.md R22 to
R34). -/
def Obligations.EachPieceOfStateHasItsOwnWriters : Prop :=
  ∀ s t : State, s.started = true → step s = .next t →
    t.rom = s.rom ∧ t.expPresent = s.expPresent ∧ t.storeAvailable = s.storeAvailable ∧
    (t.cathode ≠ s.cathode → ∃ w rest v, s.inputs = .word w :: rest ∧ decode w = .ok (.iowCath v)) ∧
    (t.keyRow ≠ s.keyRow → ∃ w rest r c, s.inputs = .word w :: rest ∧
      (decode w = .ok (.keyDown r c) ∨ decode w = .ok (.keyUp r))) ∧
    (t.expDirA ≠ s.expDirA ∨ t.expDirB ≠ s.expDirB →
      ∃ w rest v, s.inputs = .word w :: rest ∧ decode w = .ok (.iowExpctl v)) ∧
    (t.store ≠ s.store → ∃ w rest v, s.inputs = .word w :: rest ∧ decode w = .ok (.iowSave v)) ∧
    (t.ram ≠ s.ram → ∃ w rest a v x, s.inputs = .word w :: rest ∧
      (decode w = .ok (.memw a v) ∨ decode w = .ok (.memw16 a x) ∨ decode w = .ok (.iowLoad v))) ∧
    (t.digits ≠ s.digits ∨ t.segTrace ≠ s.segTrace →
      (∃ w rest v, s.inputs = .word w :: rest ∧ decode w = .ok (.iowSeg v)) ∨
      (∃ cost rest, s.inputs = .cpuReturn cost :: rest ∧ s.inTick = true ∧ 1100 ≤ s.acc + cost)) ∧
    (t.inTick ≠ s.inTick ∨ t.acc ≠ s.acc →
      (∃ w rest, s.inputs = .word w :: rest ∧ decode w = .ok .tick) ∨
      (∃ cost rest, s.inputs = .cpuReturn cost :: rest ∧ s.inTick = true)) ∧
    (t.run ≠ s.run → ∃ w rest, s.inputs = .word w :: rest ∧
      (decode w = .ok .runToggle ∨ decode w = .ok .runStart ∨ decode w = .ok .runStop))

/-! ## Power-on and the invariant -/

/-- POWER_ON as the first event: every element at its power-on value, the display dark and its 63 off events sent in ascending
order, the CPU reset, and the store, the draws taken and what waits kept. Not as the first event, it has no step (R270; D4, D7,
D9, D10, D22, D31, D39, D40; that the other traces begin empty is the model's choice, log 7; how `started` says which event
is the first, log 6). -/
def Obligations.PowerOnSetsThePowerOnState : Prop :=
  ∀ s : State,
    (s.started = true → exec .powerOn s = .refused .powerOnNotFirst) ∧
    (s.started = false → ∃ t, exec .powerOn s = .next t ∧
      t.rom = Config.romImage ∧ (∀ o, t.ram.read o = Config.ramPowerOn o) ∧ t.cathode = Config.cathodePowerOn ∧
      (∀ r : Fin 9, t.keyRow[r] = 0x7F#8) ∧
      (∀ d : Fin 9, t.digits[d] = { segs := Vector.replicate 7 false, decay := 0, lastSeen := 0x7F#7 }) ∧
      t.segTrace = (List.finRange 9).flatMap (fun d => (List.finRange 7).map fun k => ⟨d, k, false⟩) ∧
      t.expPresent = Config.expPresent ∧ t.expDirA = .input ∧ t.expDirB = .input ∧
      t.storeAvailable = Config.storeAvailable ∧ t.store = s.store ∧
      t.run = .stopped ∧ t.inTick = false ∧ t.acc = 0 ∧ t.cpuCalls = [.reset] ∧ t.expCalls = [] ∧
      t.storeCalls = [] ∧ t.returned = [] ∧ t.draws = s.draws ∧ t.inputs = s.inputs ∧ t.started = false)

/-- After any input has been applied a POWER_ON has no step (70_reset_and_hazards.md R270, D40; log 6). -/
def Obligations.PowerOnHasNoStepAfterAnyInput : Prop :=
  ∀ s t : State, s.inputs ≠ [] → step s = .next t → exec .powerOn t = .refused .powerOnNotFirst

/-- State.reset holds the power-on values the spec gives: ROM_IMAGE, idle key rows, dark digits, the 63 off events of the
power-on clear in ascending order, the expander directions IN, Stopped, no tick, the parameters EXP_PRESENT, STORE_AVAILABLE
and STORE_INIT (10_state.md section 9; D9, D10, D22, D39). -/
def Obligations.ResetHoldsThePowerOnValues : Prop :=
  let s := State.reset
  s.rom = Config.romImage ∧ s.rom.length = Config.romSize ∧ 1 ≤ Config.romSize ∧ Config.romSize ≤ 0x2000 ∧
  (∀ r : Fin 9, s.keyRow[r] = 0x7F#8) ∧
  (∀ d : Fin 9, s.digits[d].decay = 0 ∧ s.digits[d].lastSeen = 0x7F#7 ∧ ∀ k : Fin 7, s.digits[d].segs[k] = false) ∧
  s.segTrace = (List.finRange 9).flatMap (fun d => (List.finRange 7).map fun k => ⟨d, k, false⟩) ∧ s.expPresent = Config.expPresent ∧ s.expDirA = .input ∧ s.expDirB = .input ∧
  s.run = .stopped ∧ s.inTick = false ∧ s.acc = 0 ∧ s.storeAvailable = Config.storeAvailable ∧
  (∀ id : Byte, s.store.get (Config.blockName id) = Config.storeInit (Config.blockName id))

/-- The invariant holds at State.reset (its parts are State.Inv's fields). -/
def Obligations.ResetMeetsTheInvariant : Prop := State.reset.Inv

/-- Every step keeps the invariant: RAM and the store in canonical form (the form is the model's), what power-on fixed fixed
(R22, R29, R34), the display consistent (R27) and as sent (R26, R28), a tick only while Running and below its budget (R214,
R215), an absent expander never called and its directions IN (R190, R194). -/
def Obligations.StepKeepsTheInvariant : Prop :=
  ∀ s t : State, s.Inv → step s = .next t → t.Inv
end

