-- ==== Sys2Proof/Laws/Memory.lean ====
section
/-! SUPPORT. The laws of the sparse data that RAM and the persistent store are held in: what a read after a write gives, and that every operation keeps the canonical form; then the same for RAM and the store by name. -/

namespace Sys2Proof.Machine

section Sparse

variable {β : Type} (d : Nat → β)

theorem Sparse.read_insert (m : List (Nat × β)) (k : Nat) (v : β) (hk : ∀ e ∈ m, e.1 ≠ k) (j : Nat) :
    Sparse.read d (Sparse.insert m k v) j = if j = k then v else Sparse.read d m j := by
  induction m with
  | nil => simp [Sparse.insert, Sparse.read]
  | cons e m ih =>
    obtain ⟨a, w⟩ := e
    have ha : a ≠ k := hk (a, w) (by simp)
    have hm := ih fun e he => hk e (by simp [he])
    simp only [Sparse.insert]
    split
    · simp [Sparse.read]
    · simp only [Sparse.read, hm]
      grind

theorem Sparse.read_filter (m : List (Nat × β)) (k j : Nat) :
    Sparse.read d (m.filter fun e => e.1 != k) j = if j = k then d k else Sparse.read d m j := by
  induction m with
  | nil => simp [Sparse.read]; rintro rfl; rfl
  | cons e m ih =>
    obtain ⟨a, w⟩ := e
    by_cases h : a = k
    · subst h; simp [Sparse.read, ih]; grind
    · simp [Sparse.read, h, ih]; grind

variable [DecidableEq β]

/-- What a read after a write gives, in any list. -/
theorem Sparse.read_write (m : List (Nat × β)) (k : Nat) (v : β) (j : Nat) :
    Sparse.read d (Sparse.write d m k v) j = if j = k then v else Sparse.read d m j := by
  have hk : ∀ e ∈ m.filter (fun e => e.1 != k), e.1 ≠ k := by simp
  unfold Sparse.write
  split
  · rename_i h; simp [read_filter, h]
  · rw [read_insert d _ _ _ hk, read_filter]; grind

theorem Sparse.mem_insert (m : List (Nat × β)) (k : Nat) (v : β) (e : Nat × β) :
    e ∈ Sparse.insert m k v ↔ e = (k, v) ∨ e ∈ m := by
  induction m with
  | nil => simp [Sparse.insert]
  | cons x m ih => simp only [Sparse.insert]; split <;> simp [ih]; tauto

theorem Sparse.wf_filter {bound : Nat} (m : List (Nat × β)) (p : Nat × β → Bool) (h : Sparse.wf d bound m = true) :
    Sparse.wf d bound (m.filter p) = true := by
  induction m with
  | nil => simpa using h
  | cons e m ih =>
    obtain ⟨a, w⟩ := e
    simp only [Sparse.wf, Bool.and_eq_true, List.all_eq_true] at h
    obtain ⟨⟨⟨h1, h2⟩, h3⟩, h4⟩ := h
    simp only [List.filter_cons]
    split
    · simp only [Sparse.wf, Bool.and_eq_true, List.all_eq_true]
      exact ⟨⟨⟨h1, h2⟩, fun e he => h3 e (List.mem_filter.mp he).1⟩, ih h4⟩
    · exact ih h4

theorem Sparse.wf_insert {bound : Nat} (m : List (Nat × β)) (k : Nat) (v : β) (h : Sparse.wf d bound m = true)
    (hk : k < bound) (hv : v ≠ d k) (hne : ∀ e ∈ m, e.1 ≠ k) : Sparse.wf d bound (Sparse.insert m k v) = true := by
  induction m with
  | nil => simp [Sparse.insert, Sparse.wf, hk, hv]
  | cons e m ih =>
    obtain ⟨a, w⟩ := e
    have h0 := h
    simp only [Sparse.wf, Bool.and_eq_true, List.all_eq_true, decide_eq_true_eq] at h
    obtain ⟨⟨⟨h1, h2⟩, h3⟩, h4⟩ := h
    have ha : a ≠ k := hne (a, w) (by simp)
    simp only [Sparse.insert]
    split
    · rename_i hlt
      simp only [Sparse.wf, Bool.and_eq_true, List.all_eq_true, decide_eq_true_eq]
      refine ⟨⟨⟨hk, hv⟩, fun e he => ?_⟩, ⟨⟨h1, h2⟩, h3⟩, h4⟩
      rcases List.mem_cons.mp he with rfl | he
      · exact hlt
      · exact hlt.trans (h3 e he)
    · simp only [Sparse.wf, Bool.and_eq_true, List.all_eq_true, decide_eq_true_eq]
      refine ⟨⟨⟨h1, h2⟩, fun e he => ?_⟩, ih h4 fun e he => hne e (by simp [he])⟩
      rcases (mem_insert m k v e).mp he with rfl | he
      · simp only; omega
      · exact h3 e he

/-- A write inside the bound keeps the canonical form. -/
theorem Sparse.wf_write {bound : Nat} (m : List (Nat × β)) (k : Nat) (v : β) (h : Sparse.wf d bound m = true)
    (hk : k < bound) : Sparse.wf d bound (Sparse.write d m k v) = true := by
  unfold Sparse.write
  split
  · exact wf_filter d m _ h
  · exact wf_insert d _ k v (wf_filter d m _ h) hk ‹_› (by simp)

/-- Two lists in canonical form that read alike are equal. -/
theorem Sparse.eq_of_read_eq {bound : Nat} (m n : List (Nat × β)) (hm : Sparse.wf d bound m = true)
    (hn : Sparse.wf d bound n = true) (h : ∀ k, Sparse.read d m k = Sparse.read d n k) : m = n := by
  have below : ∀ (l : List (Nat × β)) (k : Nat), (∀ e ∈ l, k < e.1) → Sparse.read d l k = d k := by
    intro l k hl
    induction l with
    | nil => rfl
    | cons e l ih =>
      have := hl e (by simp)
      simp only [Sparse.read]
      rw [if_neg (by omega)]
      exact ih fun e he => hl e (by simp [he])
  induction m generalizing n with
  | nil =>
    cases n with
    | nil => rfl
    | cons e n =>
      simp only [Sparse.wf, Bool.and_eq_true, decide_eq_true_eq] at hn
      have := h e.1
      simp only [Sparse.read, if_pos] at this
      exact absurd this.symm hn.1.1.2
  | cons e m ih =>
    obtain ⟨a, v⟩ := e
    simp only [Sparse.wf, Bool.and_eq_true, List.all_eq_true, decide_eq_true_eq] at hm
    cases n with
    | nil =>
      have := h a
      simp only [Sparse.read, if_pos] at this
      exact absurd this hm.1.1.2
    | cons f n =>
      obtain ⟨b, w⟩ := f
      simp only [Sparse.wf, Bool.and_eq_true, List.all_eq_true, decide_eq_true_eq] at hn
      have hab : a = b := by
        rcases Nat.lt_trichotomy a b with hlt | heq | hlt
        · have := h a
          rw [below ((b, w) :: n) a (by
            intro e he
            rcases List.mem_cons.mp he with rfl | he
            · exact hlt
            · exact hlt.trans (hn.1.2 e he))] at this
          simp only [Sparse.read, if_pos] at this
          exact absurd this hm.1.1.2
        · exact heq
        · have := h b
          rw [below ((a, v) :: m) b (by
            intro e he
            rcases List.mem_cons.mp he with rfl | he
            · exact hlt
            · exact hlt.trans (hm.1.2 e he))] at this
          simp only [Sparse.read, if_pos] at this
          exact absurd this.symm hn.1.1.2
      subst hab
      have hv : v = w := by simpa [Sparse.read] using h a
      subst hv
      congr 1
      refine ih n hm.2 hn.2 fun k => ?_
      by_cases hk : k = a
      · subst hk
        rw [below m k hm.1.2, below n k hn.1.2]
      · simpa [Sparse.read, hk] using h k

end Sparse

/-! ## RAM -/

/-- What a RAM read after a RAM write gives. -/
theorem Memory.read_write (m : Memory) (o : Nat) (v : Byte) (j : Nat) :
    (m.write o v).read j = if j = o then v else m.read j := Sparse.read_write _ m o v j

theorem Memory.wf_write (m : Memory) (o : Nat) (v : Byte) (h : m.wf = true) (ho : o < 8192) :
    (m.write o v).wf = true := Sparse.wf_write _ m o v h ho

@[simp] theorem Memory.length_readRange (m : Memory) (start n : Nat) : (m.readRange start n).length = n := by
  simp [Memory.readRange]

/-- What a RAM read after an ascending copy gives. -/
theorem Memory.read_writeRange (m : Memory) (start : Nat) (bs : List Byte) (j : Nat) :
    (m.writeRange start bs).read j =
      if h : start ≤ j ∧ j < start + bs.length then bs[j - start]'(by omega) else m.read j := by
  induction bs generalizing m start with
  | nil => simp [Memory.writeRange]
  | cons b bs ih =>
    simp only [Memory.writeRange, ih, Memory.read_write, List.length_cons]
    by_cases h1 : j = start
    · subst h1; simp
    · by_cases h2 : start + 1 ≤ j ∧ j < start + 1 + bs.length
      · rw [dif_pos h2, dif_pos (by omega)]
        have : j - start = (j - (start + 1)) + 1 := by omega
        simp [this]
      · rw [dif_neg h2, dif_neg (by omega), if_neg h1]

theorem Memory.wf_writeRange (m : Memory) (start : Nat) (bs : List Byte) (h : m.wf = true)
    (hb : start + bs.length ≤ 8192) : (m.writeRange start bs).wf = true := by
  induction bs generalizing m start with
  | nil => simpa [Memory.writeRange] using h
  | cons b bs ih =>
    simp only [List.length_cons] at hb
    exact ih _ _ (Memory.wf_write m start b h (by omega)) (by omega)

theorem ramOffset_eq_mod (a : Addr) : ramOffset a = a.toNat % 8192 := by
  have h : Config.windowMask.toNat = 2 ^ 13 - 1 := by decide
  simp only [ramOffset, BitVec.toNat_and, h, Nat.and_two_pow_sub_one_eq_mod]

theorem ramOffset_lt (a : Addr) : ramOffset a < 8192 := by
  rw [ramOffset_eq_mod]; omega

/-! ## The persistent store -/

/-- What a store lookup after a store write gives. -/
theorem Store.get_put (m : Store) (n : ObjName) (o : Option (List Byte)) (j : ObjName) :
    (m.put n o).get j = if j = n then o else m.get j := by
  have : j.block.toNat = n.block.toNat ↔ j = n := by
    obtain ⟨j⟩ := j; obtain ⟨n⟩ := n; simp [← BitVec.toNat_inj]
  simp only [Store.get, Store.put, Sparse.read_write, this]

theorem Store.wf_put (m : Store) (n : ObjName) (o : Option (List Byte)) (h : m.wf = true) : (m.put n o).wf = true :=
  Sparse.wf_write _ m _ o h n.block.isLt

theorem Config.blockName_injective : Function.Injective Config.blockName := fun _ _ h => by
  simpa [Config.blockName] using h

end Sys2Proof.Machine
end

