-- ==== Sys2Proof/Laws/State.lean ====
section
/-! SUPPORT. What each update of the state leaves in each field: one lemma per field per update, each true by rfl. -/

namespace Sys2Proof.Machine

variable (s : State)

/-! ## State.writeByte -/

@[simp] theorem State.writeByte_rom (a : Addr) (v : Byte) : (s.writeByte a v).rom = s.rom := rfl
@[simp] theorem State.writeByte_ram (a : Addr) (v : Byte) : (s.writeByte a v).ram = s.ram.write (ramOffset a) v := rfl
@[simp] theorem State.writeByte_cathode (a : Addr) (v : Byte) : (s.writeByte a v).cathode = s.cathode := rfl
@[simp] theorem State.writeByte_keyRow (a : Addr) (v : Byte) : (s.writeByte a v).keyRow = s.keyRow := rfl
@[simp] theorem State.writeByte_digits (a : Addr) (v : Byte) : (s.writeByte a v).digits = s.digits := rfl
@[simp] theorem State.writeByte_segTrace (a : Addr) (v : Byte) : (s.writeByte a v).segTrace = s.segTrace := rfl
@[simp] theorem State.writeByte_expPresent (a : Addr) (v : Byte) : (s.writeByte a v).expPresent = s.expPresent := rfl
@[simp] theorem State.writeByte_expDirA (a : Addr) (v : Byte) : (s.writeByte a v).expDirA = s.expDirA := rfl
@[simp] theorem State.writeByte_expDirB (a : Addr) (v : Byte) : (s.writeByte a v).expDirB = s.expDirB := rfl
@[simp] theorem State.writeByte_run (a : Addr) (v : Byte) : (s.writeByte a v).run = s.run := rfl
@[simp] theorem State.writeByte_inTick (a : Addr) (v : Byte) : (s.writeByte a v).inTick = s.inTick := rfl
@[simp] theorem State.writeByte_acc (a : Addr) (v : Byte) : (s.writeByte a v).acc = s.acc := rfl
@[simp] theorem State.writeByte_store (a : Addr) (v : Byte) : (s.writeByte a v).store = s.store := rfl
@[simp] theorem State.writeByte_storeAvailable (a : Addr) (v : Byte) : (s.writeByte a v).storeAvailable = s.storeAvailable := rfl
@[simp] theorem State.writeByte_cpuCalls (a : Addr) (v : Byte) : (s.writeByte a v).cpuCalls = s.cpuCalls := rfl
@[simp] theorem State.writeByte_storeCalls (a : Addr) (v : Byte) : (s.writeByte a v).storeCalls = s.storeCalls := rfl
@[simp] theorem State.writeByte_expCalls (a : Addr) (v : Byte) : (s.writeByte a v).expCalls = s.expCalls := rfl
@[simp] theorem State.writeByte_returned (a : Addr) (v : Byte) : (s.writeByte a v).returned = s.returned := rfl
@[simp] theorem State.writeByte_draws (a : Addr) (v : Byte) : (s.writeByte a v).draws = s.draws := rfl
@[simp] theorem State.writeByte_inputs (a : Addr) (v : Byte) : (s.writeByte a v).inputs = s.inputs := rfl
@[simp] theorem State.writeByte_started (a : Addr) (v : Byte) : (s.writeByte a v).started = s.started := rfl

/-! ## State.writeWord -/

@[simp] theorem State.writeWord_rom (a : Addr) (w : Word) : (s.writeWord a w).rom = s.rom := rfl
@[simp] theorem State.writeWord_ram (a : Addr) (w : Word) : (s.writeWord a w).ram = (s.ram.write (ramOffset a) (lowByte w)).write (ramOffset (nextAddr a)) (highByte w) := rfl
@[simp] theorem State.writeWord_cathode (a : Addr) (w : Word) : (s.writeWord a w).cathode = s.cathode := rfl
@[simp] theorem State.writeWord_keyRow (a : Addr) (w : Word) : (s.writeWord a w).keyRow = s.keyRow := rfl
@[simp] theorem State.writeWord_digits (a : Addr) (w : Word) : (s.writeWord a w).digits = s.digits := rfl
@[simp] theorem State.writeWord_segTrace (a : Addr) (w : Word) : (s.writeWord a w).segTrace = s.segTrace := rfl
@[simp] theorem State.writeWord_expPresent (a : Addr) (w : Word) : (s.writeWord a w).expPresent = s.expPresent := rfl
@[simp] theorem State.writeWord_expDirA (a : Addr) (w : Word) : (s.writeWord a w).expDirA = s.expDirA := rfl
@[simp] theorem State.writeWord_expDirB (a : Addr) (w : Word) : (s.writeWord a w).expDirB = s.expDirB := rfl
@[simp] theorem State.writeWord_run (a : Addr) (w : Word) : (s.writeWord a w).run = s.run := rfl
@[simp] theorem State.writeWord_inTick (a : Addr) (w : Word) : (s.writeWord a w).inTick = s.inTick := rfl
@[simp] theorem State.writeWord_acc (a : Addr) (w : Word) : (s.writeWord a w).acc = s.acc := rfl
@[simp] theorem State.writeWord_store (a : Addr) (w : Word) : (s.writeWord a w).store = s.store := rfl
@[simp] theorem State.writeWord_storeAvailable (a : Addr) (w : Word) : (s.writeWord a w).storeAvailable = s.storeAvailable := rfl
@[simp] theorem State.writeWord_cpuCalls (a : Addr) (w : Word) : (s.writeWord a w).cpuCalls = s.cpuCalls := rfl
@[simp] theorem State.writeWord_storeCalls (a : Addr) (w : Word) : (s.writeWord a w).storeCalls = s.storeCalls := rfl
@[simp] theorem State.writeWord_expCalls (a : Addr) (w : Word) : (s.writeWord a w).expCalls = s.expCalls := rfl
@[simp] theorem State.writeWord_returned (a : Addr) (w : Word) : (s.writeWord a w).returned = s.returned := rfl
@[simp] theorem State.writeWord_draws (a : Addr) (w : Word) : (s.writeWord a w).draws = s.draws := rfl
@[simp] theorem State.writeWord_inputs (a : Addr) (w : Word) : (s.writeWord a w).inputs = s.inputs := rfl
@[simp] theorem State.writeWord_started (a : Addr) (w : Word) : (s.writeWord a w).started = s.started := rfl

/-! ## State.returnByte -/

@[simp] theorem State.returnByte_rom (v : Byte) : (s.returnByte v).rom = s.rom := rfl
@[simp] theorem State.returnByte_ram (v : Byte) : (s.returnByte v).ram = s.ram := rfl
@[simp] theorem State.returnByte_cathode (v : Byte) : (s.returnByte v).cathode = s.cathode := rfl
@[simp] theorem State.returnByte_keyRow (v : Byte) : (s.returnByte v).keyRow = s.keyRow := rfl
@[simp] theorem State.returnByte_digits (v : Byte) : (s.returnByte v).digits = s.digits := rfl
@[simp] theorem State.returnByte_segTrace (v : Byte) : (s.returnByte v).segTrace = s.segTrace := rfl
@[simp] theorem State.returnByte_expPresent (v : Byte) : (s.returnByte v).expPresent = s.expPresent := rfl
@[simp] theorem State.returnByte_expDirA (v : Byte) : (s.returnByte v).expDirA = s.expDirA := rfl
@[simp] theorem State.returnByte_expDirB (v : Byte) : (s.returnByte v).expDirB = s.expDirB := rfl
@[simp] theorem State.returnByte_run (v : Byte) : (s.returnByte v).run = s.run := rfl
@[simp] theorem State.returnByte_inTick (v : Byte) : (s.returnByte v).inTick = s.inTick := rfl
@[simp] theorem State.returnByte_acc (v : Byte) : (s.returnByte v).acc = s.acc := rfl
@[simp] theorem State.returnByte_store (v : Byte) : (s.returnByte v).store = s.store := rfl
@[simp] theorem State.returnByte_storeAvailable (v : Byte) : (s.returnByte v).storeAvailable = s.storeAvailable := rfl
@[simp] theorem State.returnByte_cpuCalls (v : Byte) : (s.returnByte v).cpuCalls = s.cpuCalls := rfl
@[simp] theorem State.returnByte_storeCalls (v : Byte) : (s.returnByte v).storeCalls = s.storeCalls := rfl
@[simp] theorem State.returnByte_expCalls (v : Byte) : (s.returnByte v).expCalls = s.expCalls := rfl
@[simp] theorem State.returnByte_returned (v : Byte) : (s.returnByte v).returned = s.returned ++ [.byte v] := rfl
@[simp] theorem State.returnByte_draws (v : Byte) : (s.returnByte v).draws = s.draws := rfl
@[simp] theorem State.returnByte_inputs (v : Byte) : (s.returnByte v).inputs = s.inputs := rfl
@[simp] theorem State.returnByte_started (v : Byte) : (s.returnByte v).started = s.started := rfl

/-! ## State.returnWord -/

@[simp] theorem State.returnWord_rom (w : Word) : (s.returnWord w).rom = s.rom := rfl
@[simp] theorem State.returnWord_ram (w : Word) : (s.returnWord w).ram = s.ram := rfl
@[simp] theorem State.returnWord_cathode (w : Word) : (s.returnWord w).cathode = s.cathode := rfl
@[simp] theorem State.returnWord_keyRow (w : Word) : (s.returnWord w).keyRow = s.keyRow := rfl
@[simp] theorem State.returnWord_digits (w : Word) : (s.returnWord w).digits = s.digits := rfl
@[simp] theorem State.returnWord_segTrace (w : Word) : (s.returnWord w).segTrace = s.segTrace := rfl
@[simp] theorem State.returnWord_expPresent (w : Word) : (s.returnWord w).expPresent = s.expPresent := rfl
@[simp] theorem State.returnWord_expDirA (w : Word) : (s.returnWord w).expDirA = s.expDirA := rfl
@[simp] theorem State.returnWord_expDirB (w : Word) : (s.returnWord w).expDirB = s.expDirB := rfl
@[simp] theorem State.returnWord_run (w : Word) : (s.returnWord w).run = s.run := rfl
@[simp] theorem State.returnWord_inTick (w : Word) : (s.returnWord w).inTick = s.inTick := rfl
@[simp] theorem State.returnWord_acc (w : Word) : (s.returnWord w).acc = s.acc := rfl
@[simp] theorem State.returnWord_store (w : Word) : (s.returnWord w).store = s.store := rfl
@[simp] theorem State.returnWord_storeAvailable (w : Word) : (s.returnWord w).storeAvailable = s.storeAvailable := rfl
@[simp] theorem State.returnWord_cpuCalls (w : Word) : (s.returnWord w).cpuCalls = s.cpuCalls := rfl
@[simp] theorem State.returnWord_storeCalls (w : Word) : (s.returnWord w).storeCalls = s.storeCalls := rfl
@[simp] theorem State.returnWord_expCalls (w : Word) : (s.returnWord w).expCalls = s.expCalls := rfl
@[simp] theorem State.returnWord_returned (w : Word) : (s.returnWord w).returned = s.returned ++ [.word w] := rfl
@[simp] theorem State.returnWord_draws (w : Word) : (s.returnWord w).draws = s.draws := rfl
@[simp] theorem State.returnWord_inputs (w : Word) : (s.returnWord w).inputs = s.inputs := rfl
@[simp] theorem State.returnWord_started (w : Word) : (s.returnWord w).started = s.started := rfl

/-! ## State.callCpu -/

@[simp] theorem State.callCpu_rom (c : CpuCall) : (s.callCpu c).rom = s.rom := rfl
@[simp] theorem State.callCpu_ram (c : CpuCall) : (s.callCpu c).ram = s.ram := rfl
@[simp] theorem State.callCpu_cathode (c : CpuCall) : (s.callCpu c).cathode = s.cathode := rfl
@[simp] theorem State.callCpu_keyRow (c : CpuCall) : (s.callCpu c).keyRow = s.keyRow := rfl
@[simp] theorem State.callCpu_digits (c : CpuCall) : (s.callCpu c).digits = s.digits := rfl
@[simp] theorem State.callCpu_segTrace (c : CpuCall) : (s.callCpu c).segTrace = s.segTrace := rfl
@[simp] theorem State.callCpu_expPresent (c : CpuCall) : (s.callCpu c).expPresent = s.expPresent := rfl
@[simp] theorem State.callCpu_expDirA (c : CpuCall) : (s.callCpu c).expDirA = s.expDirA := rfl
@[simp] theorem State.callCpu_expDirB (c : CpuCall) : (s.callCpu c).expDirB = s.expDirB := rfl
@[simp] theorem State.callCpu_run (c : CpuCall) : (s.callCpu c).run = s.run := rfl
@[simp] theorem State.callCpu_inTick (c : CpuCall) : (s.callCpu c).inTick = s.inTick := rfl
@[simp] theorem State.callCpu_acc (c : CpuCall) : (s.callCpu c).acc = s.acc := rfl
@[simp] theorem State.callCpu_store (c : CpuCall) : (s.callCpu c).store = s.store := rfl
@[simp] theorem State.callCpu_storeAvailable (c : CpuCall) : (s.callCpu c).storeAvailable = s.storeAvailable := rfl
@[simp] theorem State.callCpu_cpuCalls (c : CpuCall) : (s.callCpu c).cpuCalls = s.cpuCalls ++ [c] := rfl
@[simp] theorem State.callCpu_storeCalls (c : CpuCall) : (s.callCpu c).storeCalls = s.storeCalls := rfl
@[simp] theorem State.callCpu_expCalls (c : CpuCall) : (s.callCpu c).expCalls = s.expCalls := rfl
@[simp] theorem State.callCpu_returned (c : CpuCall) : (s.callCpu c).returned = s.returned := rfl
@[simp] theorem State.callCpu_draws (c : CpuCall) : (s.callCpu c).draws = s.draws := rfl
@[simp] theorem State.callCpu_inputs (c : CpuCall) : (s.callCpu c).inputs = s.inputs := rfl
@[simp] theorem State.callCpu_started (c : CpuCall) : (s.callCpu c).started = s.started := rfl

/-! ## State.redirect -/

@[simp] theorem State.redirect_rom (r : BlockResult) : (s.redirect r).rom = s.rom := rfl
@[simp] theorem State.redirect_ram (r : BlockResult) : (s.redirect r).ram = s.ram := rfl
@[simp] theorem State.redirect_cathode (r : BlockResult) : (s.redirect r).cathode = s.cathode := rfl
@[simp] theorem State.redirect_keyRow (r : BlockResult) : (s.redirect r).keyRow = s.keyRow := rfl
@[simp] theorem State.redirect_digits (r : BlockResult) : (s.redirect r).digits = s.digits := rfl
@[simp] theorem State.redirect_segTrace (r : BlockResult) : (s.redirect r).segTrace = s.segTrace := rfl
@[simp] theorem State.redirect_expPresent (r : BlockResult) : (s.redirect r).expPresent = s.expPresent := rfl
@[simp] theorem State.redirect_expDirA (r : BlockResult) : (s.redirect r).expDirA = s.expDirA := rfl
@[simp] theorem State.redirect_expDirB (r : BlockResult) : (s.redirect r).expDirB = s.expDirB := rfl
@[simp] theorem State.redirect_run (r : BlockResult) : (s.redirect r).run = s.run := rfl
@[simp] theorem State.redirect_inTick (r : BlockResult) : (s.redirect r).inTick = s.inTick := rfl
@[simp] theorem State.redirect_acc (r : BlockResult) : (s.redirect r).acc = s.acc := rfl
@[simp] theorem State.redirect_store (r : BlockResult) : (s.redirect r).store = s.store := rfl
@[simp] theorem State.redirect_storeAvailable (r : BlockResult) : (s.redirect r).storeAvailable = s.storeAvailable := rfl
@[simp] theorem State.redirect_cpuCalls (r : BlockResult) : (s.redirect r).cpuCalls = s.cpuCalls ++ [.setProgramCounter (redirectTarget r)] := rfl
@[simp] theorem State.redirect_storeCalls (r : BlockResult) : (s.redirect r).storeCalls = s.storeCalls := rfl
@[simp] theorem State.redirect_expCalls (r : BlockResult) : (s.redirect r).expCalls = s.expCalls := rfl
@[simp] theorem State.redirect_returned (r : BlockResult) : (s.redirect r).returned = s.returned := rfl
@[simp] theorem State.redirect_draws (r : BlockResult) : (s.redirect r).draws = s.draws := rfl
@[simp] theorem State.redirect_inputs (r : BlockResult) : (s.redirect r).inputs = s.inputs := rfl
@[simp] theorem State.redirect_started (r : BlockResult) : (s.redirect r).started = s.started := rfl

/-! ## State.emit -/

@[simp] theorem State.emit_rom (es : List SegEvent) : (s.emit es).rom = s.rom := rfl
@[simp] theorem State.emit_ram (es : List SegEvent) : (s.emit es).ram = s.ram := rfl
@[simp] theorem State.emit_cathode (es : List SegEvent) : (s.emit es).cathode = s.cathode := rfl
@[simp] theorem State.emit_keyRow (es : List SegEvent) : (s.emit es).keyRow = s.keyRow := rfl
@[simp] theorem State.emit_digits (es : List SegEvent) : (s.emit es).digits = s.digits := rfl
@[simp] theorem State.emit_segTrace (es : List SegEvent) : (s.emit es).segTrace = s.segTrace ++ es := rfl
@[simp] theorem State.emit_expPresent (es : List SegEvent) : (s.emit es).expPresent = s.expPresent := rfl
@[simp] theorem State.emit_expDirA (es : List SegEvent) : (s.emit es).expDirA = s.expDirA := rfl
@[simp] theorem State.emit_expDirB (es : List SegEvent) : (s.emit es).expDirB = s.expDirB := rfl
@[simp] theorem State.emit_run (es : List SegEvent) : (s.emit es).run = s.run := rfl
@[simp] theorem State.emit_inTick (es : List SegEvent) : (s.emit es).inTick = s.inTick := rfl
@[simp] theorem State.emit_acc (es : List SegEvent) : (s.emit es).acc = s.acc := rfl
@[simp] theorem State.emit_store (es : List SegEvent) : (s.emit es).store = s.store := rfl
@[simp] theorem State.emit_storeAvailable (es : List SegEvent) : (s.emit es).storeAvailable = s.storeAvailable := rfl
@[simp] theorem State.emit_cpuCalls (es : List SegEvent) : (s.emit es).cpuCalls = s.cpuCalls := rfl
@[simp] theorem State.emit_storeCalls (es : List SegEvent) : (s.emit es).storeCalls = s.storeCalls := rfl
@[simp] theorem State.emit_expCalls (es : List SegEvent) : (s.emit es).expCalls = s.expCalls := rfl
@[simp] theorem State.emit_returned (es : List SegEvent) : (s.emit es).returned = s.returned := rfl
@[simp] theorem State.emit_draws (es : List SegEvent) : (s.emit es).draws = s.draws := rfl
@[simp] theorem State.emit_inputs (es : List SegEvent) : (s.emit es).inputs = s.inputs := rfl
@[simp] theorem State.emit_started (es : List SegEvent) : (s.emit es).started = s.started := rfl

/-! ## State.setKeyRow -/

@[simp] theorem State.setKeyRow_rom (row : Fin 9) (code : Byte) : (s.setKeyRow row code).rom = s.rom := rfl
@[simp] theorem State.setKeyRow_ram (row : Fin 9) (code : Byte) : (s.setKeyRow row code).ram = s.ram := rfl
@[simp] theorem State.setKeyRow_cathode (row : Fin 9) (code : Byte) : (s.setKeyRow row code).cathode = s.cathode := rfl
@[simp] theorem State.setKeyRow_keyRow (row : Fin 9) (code : Byte) : (s.setKeyRow row code).keyRow = s.keyRow.set row code := rfl
@[simp] theorem State.setKeyRow_digits (row : Fin 9) (code : Byte) : (s.setKeyRow row code).digits = s.digits := rfl
@[simp] theorem State.setKeyRow_segTrace (row : Fin 9) (code : Byte) : (s.setKeyRow row code).segTrace = s.segTrace := rfl
@[simp] theorem State.setKeyRow_expPresent (row : Fin 9) (code : Byte) : (s.setKeyRow row code).expPresent = s.expPresent := rfl
@[simp] theorem State.setKeyRow_expDirA (row : Fin 9) (code : Byte) : (s.setKeyRow row code).expDirA = s.expDirA := rfl
@[simp] theorem State.setKeyRow_expDirB (row : Fin 9) (code : Byte) : (s.setKeyRow row code).expDirB = s.expDirB := rfl
@[simp] theorem State.setKeyRow_run (row : Fin 9) (code : Byte) : (s.setKeyRow row code).run = s.run := rfl
@[simp] theorem State.setKeyRow_inTick (row : Fin 9) (code : Byte) : (s.setKeyRow row code).inTick = s.inTick := rfl
@[simp] theorem State.setKeyRow_acc (row : Fin 9) (code : Byte) : (s.setKeyRow row code).acc = s.acc := rfl
@[simp] theorem State.setKeyRow_store (row : Fin 9) (code : Byte) : (s.setKeyRow row code).store = s.store := rfl
@[simp] theorem State.setKeyRow_storeAvailable (row : Fin 9) (code : Byte) : (s.setKeyRow row code).storeAvailable = s.storeAvailable := rfl
@[simp] theorem State.setKeyRow_cpuCalls (row : Fin 9) (code : Byte) : (s.setKeyRow row code).cpuCalls = s.cpuCalls := rfl
@[simp] theorem State.setKeyRow_storeCalls (row : Fin 9) (code : Byte) : (s.setKeyRow row code).storeCalls = s.storeCalls := rfl
@[simp] theorem State.setKeyRow_expCalls (row : Fin 9) (code : Byte) : (s.setKeyRow row code).expCalls = s.expCalls := rfl
@[simp] theorem State.setKeyRow_returned (row : Fin 9) (code : Byte) : (s.setKeyRow row code).returned = s.returned := rfl
@[simp] theorem State.setKeyRow_draws (row : Fin 9) (code : Byte) : (s.setKeyRow row code).draws = s.draws := rfl
@[simp] theorem State.setKeyRow_inputs (row : Fin 9) (code : Byte) : (s.setKeyRow row code).inputs = s.inputs := rfl
@[simp] theorem State.setKeyRow_started (row : Fin 9) (code : Byte) : (s.setKeyRow row code).started = s.started := rfl

/-! ## State.setDecay -/

@[simp] theorem State.setDecay_rom (d : Fin 9) (n : Nat) : (s.setDecay d n).rom = s.rom := rfl
@[simp] theorem State.setDecay_ram (d : Fin 9) (n : Nat) : (s.setDecay d n).ram = s.ram := rfl
@[simp] theorem State.setDecay_cathode (d : Fin 9) (n : Nat) : (s.setDecay d n).cathode = s.cathode := rfl
@[simp] theorem State.setDecay_keyRow (d : Fin 9) (n : Nat) : (s.setDecay d n).keyRow = s.keyRow := rfl
@[simp] theorem State.setDecay_digits (d : Fin 9) (n : Nat) : (s.setDecay d n).digits = s.digits.set d { s.digits[d] with decay := n } := rfl
@[simp] theorem State.setDecay_segTrace (d : Fin 9) (n : Nat) : (s.setDecay d n).segTrace = s.segTrace := rfl
@[simp] theorem State.setDecay_expPresent (d : Fin 9) (n : Nat) : (s.setDecay d n).expPresent = s.expPresent := rfl
@[simp] theorem State.setDecay_expDirA (d : Fin 9) (n : Nat) : (s.setDecay d n).expDirA = s.expDirA := rfl
@[simp] theorem State.setDecay_expDirB (d : Fin 9) (n : Nat) : (s.setDecay d n).expDirB = s.expDirB := rfl
@[simp] theorem State.setDecay_run (d : Fin 9) (n : Nat) : (s.setDecay d n).run = s.run := rfl
@[simp] theorem State.setDecay_inTick (d : Fin 9) (n : Nat) : (s.setDecay d n).inTick = s.inTick := rfl
@[simp] theorem State.setDecay_acc (d : Fin 9) (n : Nat) : (s.setDecay d n).acc = s.acc := rfl
@[simp] theorem State.setDecay_store (d : Fin 9) (n : Nat) : (s.setDecay d n).store = s.store := rfl
@[simp] theorem State.setDecay_storeAvailable (d : Fin 9) (n : Nat) : (s.setDecay d n).storeAvailable = s.storeAvailable := rfl
@[simp] theorem State.setDecay_cpuCalls (d : Fin 9) (n : Nat) : (s.setDecay d n).cpuCalls = s.cpuCalls := rfl
@[simp] theorem State.setDecay_storeCalls (d : Fin 9) (n : Nat) : (s.setDecay d n).storeCalls = s.storeCalls := rfl
@[simp] theorem State.setDecay_expCalls (d : Fin 9) (n : Nat) : (s.setDecay d n).expCalls = s.expCalls := rfl
@[simp] theorem State.setDecay_returned (d : Fin 9) (n : Nat) : (s.setDecay d n).returned = s.returned := rfl
@[simp] theorem State.setDecay_draws (d : Fin 9) (n : Nat) : (s.setDecay d n).draws = s.draws := rfl
@[simp] theorem State.setDecay_inputs (d : Fin 9) (n : Nat) : (s.setDecay d n).inputs = s.inputs := rfl
@[simp] theorem State.setDecay_started (d : Fin 9) (n : Nat) : (s.setDecay d n).started = s.started := rfl

/-! ## State.setLastSeen -/

@[simp] theorem State.setLastSeen_rom (d : Fin 9) (p : BitVec 7) : (s.setLastSeen d p).rom = s.rom := rfl
@[simp] theorem State.setLastSeen_ram (d : Fin 9) (p : BitVec 7) : (s.setLastSeen d p).ram = s.ram := rfl
@[simp] theorem State.setLastSeen_cathode (d : Fin 9) (p : BitVec 7) : (s.setLastSeen d p).cathode = s.cathode := rfl
@[simp] theorem State.setLastSeen_keyRow (d : Fin 9) (p : BitVec 7) : (s.setLastSeen d p).keyRow = s.keyRow := rfl
@[simp] theorem State.setLastSeen_digits (d : Fin 9) (p : BitVec 7) : (s.setLastSeen d p).digits = s.digits.set d { s.digits[d] with lastSeen := p } := rfl
@[simp] theorem State.setLastSeen_segTrace (d : Fin 9) (p : BitVec 7) : (s.setLastSeen d p).segTrace = s.segTrace := rfl
@[simp] theorem State.setLastSeen_expPresent (d : Fin 9) (p : BitVec 7) : (s.setLastSeen d p).expPresent = s.expPresent := rfl
@[simp] theorem State.setLastSeen_expDirA (d : Fin 9) (p : BitVec 7) : (s.setLastSeen d p).expDirA = s.expDirA := rfl
@[simp] theorem State.setLastSeen_expDirB (d : Fin 9) (p : BitVec 7) : (s.setLastSeen d p).expDirB = s.expDirB := rfl
@[simp] theorem State.setLastSeen_run (d : Fin 9) (p : BitVec 7) : (s.setLastSeen d p).run = s.run := rfl
@[simp] theorem State.setLastSeen_inTick (d : Fin 9) (p : BitVec 7) : (s.setLastSeen d p).inTick = s.inTick := rfl
@[simp] theorem State.setLastSeen_acc (d : Fin 9) (p : BitVec 7) : (s.setLastSeen d p).acc = s.acc := rfl
@[simp] theorem State.setLastSeen_store (d : Fin 9) (p : BitVec 7) : (s.setLastSeen d p).store = s.store := rfl
@[simp] theorem State.setLastSeen_storeAvailable (d : Fin 9) (p : BitVec 7) : (s.setLastSeen d p).storeAvailable = s.storeAvailable := rfl
@[simp] theorem State.setLastSeen_cpuCalls (d : Fin 9) (p : BitVec 7) : (s.setLastSeen d p).cpuCalls = s.cpuCalls := rfl
@[simp] theorem State.setLastSeen_storeCalls (d : Fin 9) (p : BitVec 7) : (s.setLastSeen d p).storeCalls = s.storeCalls := rfl
@[simp] theorem State.setLastSeen_expCalls (d : Fin 9) (p : BitVec 7) : (s.setLastSeen d p).expCalls = s.expCalls := rfl
@[simp] theorem State.setLastSeen_returned (d : Fin 9) (p : BitVec 7) : (s.setLastSeen d p).returned = s.returned := rfl
@[simp] theorem State.setLastSeen_draws (d : Fin 9) (p : BitVec 7) : (s.setLastSeen d p).draws = s.draws := rfl
@[simp] theorem State.setLastSeen_inputs (d : Fin 9) (p : BitVec 7) : (s.setLastSeen d p).inputs = s.inputs := rfl
@[simp] theorem State.setLastSeen_started (d : Fin 9) (p : BitVec 7) : (s.setLastSeen d p).started = s.started := rfl

/-! ## State.paint -/

@[simp] theorem State.paint_rom (d : Fin 9) (p : BitVec 7) : (s.paint d p).rom = s.rom := rfl
@[simp] theorem State.paint_ram (d : Fin 9) (p : BitVec 7) : (s.paint d p).ram = s.ram := rfl
@[simp] theorem State.paint_cathode (d : Fin 9) (p : BitVec 7) : (s.paint d p).cathode = s.cathode := rfl
@[simp] theorem State.paint_keyRow (d : Fin 9) (p : BitVec 7) : (s.paint d p).keyRow = s.keyRow := rfl
@[simp] theorem State.paint_digits (d : Fin 9) (p : BitVec 7) : (s.paint d p).digits = s.digits.set d { s.digits[d] with segs := segsOf p } := rfl
@[simp] theorem State.paint_segTrace (d : Fin 9) (p : BitVec 7) : (s.paint d p).segTrace = s.segTrace ++ paintEvents d p := rfl
@[simp] theorem State.paint_expPresent (d : Fin 9) (p : BitVec 7) : (s.paint d p).expPresent = s.expPresent := rfl
@[simp] theorem State.paint_expDirA (d : Fin 9) (p : BitVec 7) : (s.paint d p).expDirA = s.expDirA := rfl
@[simp] theorem State.paint_expDirB (d : Fin 9) (p : BitVec 7) : (s.paint d p).expDirB = s.expDirB := rfl
@[simp] theorem State.paint_run (d : Fin 9) (p : BitVec 7) : (s.paint d p).run = s.run := rfl
@[simp] theorem State.paint_inTick (d : Fin 9) (p : BitVec 7) : (s.paint d p).inTick = s.inTick := rfl
@[simp] theorem State.paint_acc (d : Fin 9) (p : BitVec 7) : (s.paint d p).acc = s.acc := rfl
@[simp] theorem State.paint_store (d : Fin 9) (p : BitVec 7) : (s.paint d p).store = s.store := rfl
@[simp] theorem State.paint_storeAvailable (d : Fin 9) (p : BitVec 7) : (s.paint d p).storeAvailable = s.storeAvailable := rfl
@[simp] theorem State.paint_cpuCalls (d : Fin 9) (p : BitVec 7) : (s.paint d p).cpuCalls = s.cpuCalls := rfl
@[simp] theorem State.paint_storeCalls (d : Fin 9) (p : BitVec 7) : (s.paint d p).storeCalls = s.storeCalls := rfl
@[simp] theorem State.paint_expCalls (d : Fin 9) (p : BitVec 7) : (s.paint d p).expCalls = s.expCalls := rfl
@[simp] theorem State.paint_returned (d : Fin 9) (p : BitVec 7) : (s.paint d p).returned = s.returned := rfl
@[simp] theorem State.paint_draws (d : Fin 9) (p : BitVec 7) : (s.paint d p).draws = s.draws := rfl
@[simp] theorem State.paint_inputs (d : Fin 9) (p : BitVec 7) : (s.paint d p).inputs = s.inputs := rfl
@[simp] theorem State.paint_started (d : Fin 9) (p : BitVec 7) : (s.paint d p).started = s.started := rfl

/-! ## State.afterExpRead -/

@[simp] theorem State.afterExpRead_rom (p : ExpPort) : (s.afterExpRead p).rom = s.rom := rfl
@[simp] theorem State.afterExpRead_ram (p : ExpPort) : (s.afterExpRead p).ram = s.ram := rfl
@[simp] theorem State.afterExpRead_cathode (p : ExpPort) : (s.afterExpRead p).cathode = s.cathode := rfl
@[simp] theorem State.afterExpRead_keyRow (p : ExpPort) : (s.afterExpRead p).keyRow = s.keyRow := rfl
@[simp] theorem State.afterExpRead_digits (p : ExpPort) : (s.afterExpRead p).digits = s.digits := rfl
@[simp] theorem State.afterExpRead_segTrace (p : ExpPort) : (s.afterExpRead p).segTrace = s.segTrace := rfl
@[simp] theorem State.afterExpRead_expPresent (p : ExpPort) : (s.afterExpRead p).expPresent = s.expPresent := rfl
@[simp] theorem State.afterExpRead_expDirA (p : ExpPort) : (s.afterExpRead p).expDirA = s.expDirA := rfl
@[simp] theorem State.afterExpRead_expDirB (p : ExpPort) : (s.afterExpRead p).expDirB = s.expDirB := rfl
@[simp] theorem State.afterExpRead_run (p : ExpPort) : (s.afterExpRead p).run = s.run := rfl
@[simp] theorem State.afterExpRead_inTick (p : ExpPort) : (s.afterExpRead p).inTick = s.inTick := rfl
@[simp] theorem State.afterExpRead_acc (p : ExpPort) : (s.afterExpRead p).acc = s.acc := rfl
@[simp] theorem State.afterExpRead_store (p : ExpPort) : (s.afterExpRead p).store = s.store := rfl
@[simp] theorem State.afterExpRead_storeAvailable (p : ExpPort) : (s.afterExpRead p).storeAvailable = s.storeAvailable := rfl
@[simp] theorem State.afterExpRead_cpuCalls (p : ExpPort) : (s.afterExpRead p).cpuCalls = s.cpuCalls := rfl
@[simp] theorem State.afterExpRead_storeCalls (p : ExpPort) : (s.afterExpRead p).storeCalls = s.storeCalls := rfl
@[simp] theorem State.afterExpRead_expCalls (p : ExpPort) : (s.afterExpRead p).expCalls = s.expCalls ++ [.read p] := rfl
@[simp] theorem State.afterExpRead_returned (p : ExpPort) : (s.afterExpRead p).returned = s.returned := rfl
@[simp] theorem State.afterExpRead_draws (p : ExpPort) : (s.afterExpRead p).draws = s.draws + 1 := rfl
@[simp] theorem State.afterExpRead_inputs (p : ExpPort) : (s.afterExpRead p).inputs = s.inputs := rfl
@[simp] theorem State.afterExpRead_started (p : ExpPort) : (s.afterExpRead p).started = s.started := rfl

/-! ## State.callStore -/

@[simp] theorem State.callStore_rom (c : StoreCall) : (s.callStore c).rom = s.rom := rfl
@[simp] theorem State.callStore_ram (c : StoreCall) : (s.callStore c).ram = s.ram := rfl
@[simp] theorem State.callStore_cathode (c : StoreCall) : (s.callStore c).cathode = s.cathode := rfl
@[simp] theorem State.callStore_keyRow (c : StoreCall) : (s.callStore c).keyRow = s.keyRow := rfl
@[simp] theorem State.callStore_digits (c : StoreCall) : (s.callStore c).digits = s.digits := rfl
@[simp] theorem State.callStore_segTrace (c : StoreCall) : (s.callStore c).segTrace = s.segTrace := rfl
@[simp] theorem State.callStore_expPresent (c : StoreCall) : (s.callStore c).expPresent = s.expPresent := rfl
@[simp] theorem State.callStore_expDirA (c : StoreCall) : (s.callStore c).expDirA = s.expDirA := rfl
@[simp] theorem State.callStore_expDirB (c : StoreCall) : (s.callStore c).expDirB = s.expDirB := rfl
@[simp] theorem State.callStore_run (c : StoreCall) : (s.callStore c).run = s.run := rfl
@[simp] theorem State.callStore_inTick (c : StoreCall) : (s.callStore c).inTick = s.inTick := rfl
@[simp] theorem State.callStore_acc (c : StoreCall) : (s.callStore c).acc = s.acc := rfl
@[simp] theorem State.callStore_store (c : StoreCall) : (s.callStore c).store = s.store := rfl
@[simp] theorem State.callStore_storeAvailable (c : StoreCall) : (s.callStore c).storeAvailable = s.storeAvailable := rfl
@[simp] theorem State.callStore_cpuCalls (c : StoreCall) : (s.callStore c).cpuCalls = s.cpuCalls := rfl
@[simp] theorem State.callStore_storeCalls (c : StoreCall) : (s.callStore c).storeCalls = s.storeCalls ++ [c] := rfl
@[simp] theorem State.callStore_expCalls (c : StoreCall) : (s.callStore c).expCalls = s.expCalls := rfl
@[simp] theorem State.callStore_returned (c : StoreCall) : (s.callStore c).returned = s.returned := rfl
@[simp] theorem State.callStore_draws (c : StoreCall) : (s.callStore c).draws = s.draws + 1 := rfl
@[simp] theorem State.callStore_inputs (c : StoreCall) : (s.callStore c).inputs = s.inputs := rfl
@[simp] theorem State.callStore_started (c : StoreCall) : (s.callStore c).started = s.started := rfl

/-! ## State.afterStoreWrite -/

@[simp] theorem State.afterStoreWrite_rom (n : ObjName) (bs : List Byte) : (s.afterStoreWrite n bs).rom = s.rom := rfl
@[simp] theorem State.afterStoreWrite_ram (n : ObjName) (bs : List Byte) : (s.afterStoreWrite n bs).ram = s.ram := rfl
@[simp] theorem State.afterStoreWrite_cathode (n : ObjName) (bs : List Byte) : (s.afterStoreWrite n bs).cathode = s.cathode := rfl
@[simp] theorem State.afterStoreWrite_keyRow (n : ObjName) (bs : List Byte) : (s.afterStoreWrite n bs).keyRow = s.keyRow := rfl
@[simp] theorem State.afterStoreWrite_digits (n : ObjName) (bs : List Byte) : (s.afterStoreWrite n bs).digits = s.digits := rfl
@[simp] theorem State.afterStoreWrite_segTrace (n : ObjName) (bs : List Byte) : (s.afterStoreWrite n bs).segTrace = s.segTrace := rfl
@[simp] theorem State.afterStoreWrite_expPresent (n : ObjName) (bs : List Byte) : (s.afterStoreWrite n bs).expPresent = s.expPresent := rfl
@[simp] theorem State.afterStoreWrite_expDirA (n : ObjName) (bs : List Byte) : (s.afterStoreWrite n bs).expDirA = s.expDirA := rfl
@[simp] theorem State.afterStoreWrite_expDirB (n : ObjName) (bs : List Byte) : (s.afterStoreWrite n bs).expDirB = s.expDirB := rfl
@[simp] theorem State.afterStoreWrite_run (n : ObjName) (bs : List Byte) : (s.afterStoreWrite n bs).run = s.run := rfl
@[simp] theorem State.afterStoreWrite_inTick (n : ObjName) (bs : List Byte) : (s.afterStoreWrite n bs).inTick = s.inTick := rfl
@[simp] theorem State.afterStoreWrite_acc (n : ObjName) (bs : List Byte) : (s.afterStoreWrite n bs).acc = s.acc := rfl
@[simp] theorem State.afterStoreWrite_store (n : ObjName) (bs : List Byte) : (s.afterStoreWrite n bs).store = s.store.put n (if s.storeFails then Config.storeAfterFailedWrite s.draws else some bs) := rfl
@[simp] theorem State.afterStoreWrite_storeAvailable (n : ObjName) (bs : List Byte) : (s.afterStoreWrite n bs).storeAvailable = s.storeAvailable := rfl
@[simp] theorem State.afterStoreWrite_cpuCalls (n : ObjName) (bs : List Byte) : (s.afterStoreWrite n bs).cpuCalls = s.cpuCalls := rfl
@[simp] theorem State.afterStoreWrite_storeCalls (n : ObjName) (bs : List Byte) : (s.afterStoreWrite n bs).storeCalls = s.storeCalls ++ [.write n bs] := rfl
@[simp] theorem State.afterStoreWrite_expCalls (n : ObjName) (bs : List Byte) : (s.afterStoreWrite n bs).expCalls = s.expCalls := rfl
@[simp] theorem State.afterStoreWrite_returned (n : ObjName) (bs : List Byte) : (s.afterStoreWrite n bs).returned = s.returned := rfl
@[simp] theorem State.afterStoreWrite_draws (n : ObjName) (bs : List Byte) : (s.afterStoreWrite n bs).draws = s.draws + 1 := rfl
@[simp] theorem State.afterStoreWrite_inputs (n : ObjName) (bs : List Byte) : (s.afterStoreWrite n bs).inputs = s.inputs := rfl
@[simp] theorem State.afterStoreWrite_started (n : ObjName) (bs : List Byte) : (s.afterStoreWrite n bs).started = s.started := rfl

/-! ## State.beginTick -/

@[simp] theorem State.beginTick_rom : s.beginTick.rom = s.rom := rfl
@[simp] theorem State.beginTick_ram : s.beginTick.ram = s.ram := rfl
@[simp] theorem State.beginTick_cathode : s.beginTick.cathode = s.cathode := rfl
@[simp] theorem State.beginTick_keyRow : s.beginTick.keyRow = s.keyRow := rfl
@[simp] theorem State.beginTick_digits : s.beginTick.digits = s.digits := rfl
@[simp] theorem State.beginTick_segTrace : s.beginTick.segTrace = s.segTrace := rfl
@[simp] theorem State.beginTick_expPresent : s.beginTick.expPresent = s.expPresent := rfl
@[simp] theorem State.beginTick_expDirA : s.beginTick.expDirA = s.expDirA := rfl
@[simp] theorem State.beginTick_expDirB : s.beginTick.expDirB = s.expDirB := rfl
@[simp] theorem State.beginTick_run : s.beginTick.run = s.run := rfl
@[simp] theorem State.beginTick_inTick : s.beginTick.inTick = true := rfl
@[simp] theorem State.beginTick_acc : s.beginTick.acc = 0 := rfl
@[simp] theorem State.beginTick_store : s.beginTick.store = s.store := rfl
@[simp] theorem State.beginTick_storeAvailable : s.beginTick.storeAvailable = s.storeAvailable := rfl
@[simp] theorem State.beginTick_cpuCalls : s.beginTick.cpuCalls = s.cpuCalls ++ [.step] := rfl
@[simp] theorem State.beginTick_storeCalls : s.beginTick.storeCalls = s.storeCalls := rfl
@[simp] theorem State.beginTick_expCalls : s.beginTick.expCalls = s.expCalls := rfl
@[simp] theorem State.beginTick_returned : s.beginTick.returned = s.returned := rfl
@[simp] theorem State.beginTick_draws : s.beginTick.draws = s.draws := rfl
@[simp] theorem State.beginTick_inputs : s.beginTick.inputs = s.inputs := rfl
@[simp] theorem State.beginTick_started : s.beginTick.started = s.started := rfl

/-! ## State.popInput -/

@[simp] theorem State.popInput_rom : s.popInput.rom = s.rom := rfl
@[simp] theorem State.popInput_ram : s.popInput.ram = s.ram := rfl
@[simp] theorem State.popInput_cathode : s.popInput.cathode = s.cathode := rfl
@[simp] theorem State.popInput_keyRow : s.popInput.keyRow = s.keyRow := rfl
@[simp] theorem State.popInput_digits : s.popInput.digits = s.digits := rfl
@[simp] theorem State.popInput_segTrace : s.popInput.segTrace = s.segTrace := rfl
@[simp] theorem State.popInput_expPresent : s.popInput.expPresent = s.expPresent := rfl
@[simp] theorem State.popInput_expDirA : s.popInput.expDirA = s.expDirA := rfl
@[simp] theorem State.popInput_expDirB : s.popInput.expDirB = s.expDirB := rfl
@[simp] theorem State.popInput_run : s.popInput.run = s.run := rfl
@[simp] theorem State.popInput_inTick : s.popInput.inTick = s.inTick := rfl
@[simp] theorem State.popInput_acc : s.popInput.acc = s.acc := rfl
@[simp] theorem State.popInput_store : s.popInput.store = s.store := rfl
@[simp] theorem State.popInput_storeAvailable : s.popInput.storeAvailable = s.storeAvailable := rfl
@[simp] theorem State.popInput_cpuCalls : s.popInput.cpuCalls = s.cpuCalls := rfl
@[simp] theorem State.popInput_storeCalls : s.popInput.storeCalls = s.storeCalls := rfl
@[simp] theorem State.popInput_expCalls : s.popInput.expCalls = s.expCalls := rfl
@[simp] theorem State.popInput_returned : s.popInput.returned = s.returned := rfl
@[simp] theorem State.popInput_draws : s.popInput.draws = s.draws := rfl
@[simp] theorem State.popInput_inputs : s.popInput.inputs = s.inputs.tail := rfl
@[simp] theorem State.popInput_started : s.popInput.started = s.started := rfl

/-! ## State.markStarted -/

@[simp] theorem State.markStarted_rom : s.markStarted.rom = s.rom := rfl
@[simp] theorem State.markStarted_ram : s.markStarted.ram = s.ram := rfl
@[simp] theorem State.markStarted_cathode : s.markStarted.cathode = s.cathode := rfl
@[simp] theorem State.markStarted_keyRow : s.markStarted.keyRow = s.keyRow := rfl
@[simp] theorem State.markStarted_digits : s.markStarted.digits = s.digits := rfl
@[simp] theorem State.markStarted_segTrace : s.markStarted.segTrace = s.segTrace := rfl
@[simp] theorem State.markStarted_expPresent : s.markStarted.expPresent = s.expPresent := rfl
@[simp] theorem State.markStarted_expDirA : s.markStarted.expDirA = s.expDirA := rfl
@[simp] theorem State.markStarted_expDirB : s.markStarted.expDirB = s.expDirB := rfl
@[simp] theorem State.markStarted_run : s.markStarted.run = s.run := rfl
@[simp] theorem State.markStarted_inTick : s.markStarted.inTick = s.inTick := rfl
@[simp] theorem State.markStarted_acc : s.markStarted.acc = s.acc := rfl
@[simp] theorem State.markStarted_store : s.markStarted.store = s.store := rfl
@[simp] theorem State.markStarted_storeAvailable : s.markStarted.storeAvailable = s.storeAvailable := rfl
@[simp] theorem State.markStarted_cpuCalls : s.markStarted.cpuCalls = s.cpuCalls := rfl
@[simp] theorem State.markStarted_storeCalls : s.markStarted.storeCalls = s.storeCalls := rfl
@[simp] theorem State.markStarted_expCalls : s.markStarted.expCalls = s.expCalls := rfl
@[simp] theorem State.markStarted_returned : s.markStarted.returned = s.returned := rfl
@[simp] theorem State.markStarted_draws : s.markStarted.draws = s.draws := rfl
@[simp] theorem State.markStarted_inputs : s.markStarted.inputs = s.inputs := rfl
@[simp] theorem State.markStarted_started : s.markStarted.started = true := rfl

end Sys2Proof.Machine
end

