-- ==== Sys2Proof/Laws/MemoryMap.lean ====
section
/-! SUPPORT. What the memory map reads before and after a write. -/

namespace Sys2Proof.Machine

theorem State.readByte_rom (s : State) (a : Addr) (h : a.toNat < s.rom.length) : s.readByte a = s.rom[a.toNat] := by
  simp [State.readByte, h]

theorem State.readByte_ram (s : State) (a : Addr) (h : ¬ a.toNat < s.rom.length) :
    s.readByte a = s.ram.read (a.toNat % 8192) := by
  simp [State.readByte, h, ramOffset_eq_mod]

/-- Two states with the same ROM and RAM read alike. -/
theorem State.readByte_congr (s t : State) (hr : t.rom = s.rom) (hm : t.ram = s.ram) (a : Addr) :
    t.readByte a = s.readByte a := by
  simp only [State.readByte, hr, hm]

/-- What a byte read after a byte write gives: ROM as before, the written byte at every alias of its address, every
other byte as before. -/
theorem State.readByte_writeByte (s : State) (a b : Addr) (v : Byte) :
    (s.writeByte a v).readByte b =
      if b.toNat < s.rom.length then s.readByte b
      else if b.toNat % 8192 = a.toNat % 8192 then v else s.readByte b := by
  by_cases hb : b.toNat < s.rom.length
  · simp [State.readByte, hb]
  · simp only [State.readByte, State.writeByte_rom, hb, dif_neg, if_neg, not_false_iff, State.writeByte_ram,
      Memory.read_write, ramOffset_eq_mod]

end Sys2Proof.Machine
end

