-- ==== Sys2Proof/Laws/BlockStore.lean ====
section
/-! SUPPORT. Everything a save, a load and a copy can do, each said once (43_block_store.md R166, R167). -/

namespace Sys2Proof.Machine

@[simp] theorem fitsWindow_iff (start n : Nat) : fitsWindow start n = true ↔ start + n ≤ 8192 := by
  simp [fitsWindow]

/-- A save either is out of range and does nothing, or calls the store, which succeeds or fails. -/
theorem State.save_cases (s : State) (id : Byte) (start length : Nat) :
    (8192 < start + length ∧ s.save id start length = (.err .addressRange, s)) ∨
    (start + length ≤ 8192 ∧ s.storeFails = true ∧
      s.save id start length =
        (.err .ioError, s.afterStoreWrite (Config.blockName id) (s.ram.readRange start length))) ∨
    (start + length ≤ 8192 ∧ s.storeFails = false ∧
      s.save id start length = (.ok, s.afterStoreWrite (Config.blockName id) (s.ram.readRange start length))) := by
  unfold State.save
  by_cases h : start + length ≤ 8192
  · cases hf : s.storeFails <;> simp [h]
  · simp [h]; omega

/-- A copy once the object is known to fit: the read fails and the target range holds draws, or the bytes are copied. -/
theorem State.loadCopy_cases (s : State) (name : ObjName) (start n : Nat) :
    (s.readResult name = none ∧
      s.loadCopy name start n =
        (.err .ioError, { s.callStore (.read name) with
          ram := s.ram.writeRange start ((s.callStore (.read name)).failedReadBytes n)
          draws := s.draws + 1 + n })) ∨
    (∃ bytes, s.readResult name = some bytes ∧
      s.loadCopy name start n =
        (.okBytes n, { s.callStore (.read name) with ram := s.ram.writeRange start bytes })) := by
  unfold State.loadCopy
  cases h : s.readResult name <;> simp

/-- A load: the lookup fails; the object is absent; it does not fit; or it is copied. -/
theorem State.load_cases (s : State) (id : Byte) (start : Nat) :
    (s.storeFails = true ∧
      s.load id start = (.err .ioError, s.callStore (.lookup (Config.blockName id)))) ∨
    (s.storeFails = false ∧ s.store.get (Config.blockName id) = none ∧
      s.load id start = (.err .notFound, s.callStore (.lookup (Config.blockName id)))) ∨
    (∃ obj, s.storeFails = false ∧ s.store.get (Config.blockName id) = some obj ∧ 8192 < start + obj.length ∧
      s.load id start = (.err .addressRange, s.callStore (.lookup (Config.blockName id)))) ∨
    (∃ obj, s.storeFails = false ∧ s.store.get (Config.blockName id) = some obj ∧ start + obj.length ≤ 8192 ∧
      s.load id start =
        (s.callStore (.lookup (Config.blockName id))).loadCopy (Config.blockName id) start obj.length) := by
  unfold State.load State.lookupResult
  cases hf : s.storeFails
  · cases ho : s.store.get (Config.blockName id) with
    | none => simp [ho]
    | some obj =>
      rcases Nat.lt_or_ge 8192 (start + obj.length) with h | h
      · have h' : ¬ start + obj.length ≤ 8192 := by omega
        simp [ho, h, h']
      · simp [ho, h]
  · simp

end Sys2Proof.Machine
end

