-- ==== Sys2Proof/Laws/Display.lean ====
section
/-! SUPPORT. What the display operations do to the digits and to the trace, each said once: a refresh, the aging of one digit and of all nine, the clear; and what a renderer shows after a paint. -/

namespace Sys2Proof.Machine

theorem segsOf_blank : segsOf Config.blank = Vector.replicate 7 false := by decide

@[simp] theorem getElem_segsOf (p : BitVec 7) (k : Nat) (h : k < 7) : (segsOf p)[k] = !p.getLsbD k := by
  simp [segsOf, segLit]

theorem mem_allDigits (d : Fin 9) : d ∈ allDigits := by revert d; decide

theorem nodup_allDigits : allDigits.Nodup := by decide

/-- A digit after a refresh with a non-blank pattern (R140). -/
def Digit.refreshed (g : Digit) (p : BitVec 7) : Digit :=
  { segs := if p ≠ g.lastSeen then segsOf p else g.segs, decay := 50, lastSeen := p }

/-- A digit after one aging pass (R141). -/
def Digit.aged (g : Digit) : Digit :=
  if g.decay = 0 then g else if g.decay = 1 then darkDigit else { g with decay := g.decay - 1 }

/-- What a digit's aging sends (R141). -/
def Digit.agingEvents (g : Digit) (d : Fin 9) : List SegEvent :=
  if g.decay = 1 then paintEvents d Config.blank else []

theorem State.refreshDigit_eq (s : State) (d : Fin 9) (p : BitVec 7) :
    s.refreshDigit d p =
      { s with
        digits := s.digits.set d (s.digits[d].refreshed p)
        segTrace := s.segTrace ++ if p ≠ s.digits[d].lastSeen then paintEvents d p else [] } := by
  unfold State.refreshDigit
  simp only [Fin.getElem_fin]
  by_cases h : p = s.digits[d.val].lastSeen
  · subst h
    simp [State.setDecay, Digit.refreshed]
  · simp [State.setDecay, State.paint, State.emit, State.setLastSeen, Digit.refreshed, h]

theorem State.ageDigit_eq (s : State) (d : Fin 9) :
    s.ageDigit d =
      { s with
        digits := s.digits.set d s.digits[d].aged
        segTrace := s.segTrace ++ s.digits[d].agingEvents d } := by
  unfold State.ageDigit Digit.aged Digit.agingEvents
  simp only [Fin.getElem_fin]
  rcases Nat.lt_trichotomy s.digits[d.val].decay 1 with h | h | h
  · have h0 : s.digits[d.val].decay = 0 := by omega
    simp [h0]
  · simp [h, State.setDecay, State.paint, State.emit, State.setLastSeen, darkDigit, segsOf_blank]
  · have h0 : s.digits[d.val].decay ≠ 0 := by omega
    have h1 : s.digits[d.val].decay ≠ 1 := by omega
    have h2 : s.digits[d.val].decay - 1 ≠ 0 := by omega
    simp [h0, h1, h2, State.setDecay]

theorem State.foldl_ageDigit (l : List (Fin 9)) (hl : l.Nodup) (s : State) :
    l.foldl State.ageDigit s =
      { s with
        digits := Vector.ofFn fun d => if d ∈ l then s.digits[d].aged else s.digits[d]
        segTrace := s.segTrace ++ l.flatMap fun d => s.digits[d].agingEvents d } := by
  induction l generalizing s with
  | nil => simp
  | cons x l ih =>
    obtain ⟨hx, hl⟩ := List.nodup_cons.mp hl
    have hne : ∀ d ∈ l, x ≠ d := fun d hd h => hx (h ▸ hd)
    rw [List.foldl_cons, ih hl, State.ageDigit_eq]
    simp only [List.flatMap_cons, List.append_assoc]
    congr 1
    · ext i hi
      simp only [Fin.getElem_fin, Vector.getElem_ofFn, List.mem_cons, Vector.getElem_set]
      by_cases hxi : x.val = i
      · have : (⟨i, hi⟩ : Fin 9) = x := Fin.ext hxi.symm
        subst hxi
        simp [hx]
      · have : (⟨i, hi⟩ : Fin 9) ≠ x := fun h => hxi (by rw [← h])
        simp [hxi, this]
    · congr 2
      refine List.flatMap_congr fun d hd => ?_
      have : x.val ≠ d.val := fun h => hne d hd (Fin.ext h)
      simp [this]

/-- The aging pass: every digit aged, the events of those that go dark sent in ascending order (R141). -/
theorem State.agePass_eq (s : State) :
    s.agePass =
      { s with
        digits := Vector.ofFn fun d => s.digits[d].aged
        segTrace := s.segTrace ++ allDigits.flatMap fun d => s.digits[d].agingEvents d } := by
  unfold State.agePass
  rw [State.foldl_ageDigit allDigits nodup_allDigits]
  simp [mem_allDigits]

theorem State.clearDigit_eq (s : State) (d : Fin 9) :
    s.clearDigit d =
      { s with
        digits := s.digits.set d darkDigit
        segTrace := s.segTrace ++ paintEvents d Config.blank } := by
  simp [State.clearDigit, State.paint, State.emit, State.setLastSeen, State.setDecay, darkDigit, segsOf_blank]

/-- What a renderer shows after one more event. -/
theorem shown_append (tr es : List SegEvent) (d : Fin 9) (k : Fin 7) :
    shown (tr ++ es) d k = es.foldl (fun on e => if e.digit = d ∧ e.seg = k then e.on else on) (shown tr d k) := by
  simp [shown]

/-- What a renderer shows after a paint (R140). -/
theorem shown_append_paintEvents (tr : List SegEvent) (d : Fin 9) (p : BitVec 7) (j : Fin 9) (k : Fin 7) :
    shown (tr ++ paintEvents d p) j k = if j = d then segLit p k else shown tr j k := by
  rw [shown_append]
  by_cases h : d = j
  · subst h
    fin_cases k <;> simp [paintEvents, allSegs]
  · simp [paintEvents, allSegs, h, Ne.symm h]

end Sys2Proof.Machine
end

