-- ==== Sys2Proof/Laws/Encoding.lean ====
section
/-! SUPPORT. The fields of a packed word, and what the two masks of the opcode table compare. -/

namespace Sys2Proof

/-- Masking an appended pair masks each half. -/
theorem and_append {n m : Nat} (w : BitVec (n + m)) (x : BitVec n) (y : BitVec m) :
    w &&& (x ++ y) = (w.extractLsb' m n &&& x) ++ (w.extractLsb' 0 m &&& y) := by
  ext i hi
  simp only [BitVec.getElem_and, BitVec.getElem_append, BitVec.getElem_extractLsb']
  split
  · simp [BitVec.getLsbD_eq_getElem hi]
  · rw [show m + (i - m) = i by omega, BitVec.getLsbD_eq_getElem hi]
/-- Two appended pairs are equal when their halves are. -/
theorem append_inj_iff {n m : Nat} (x x' : BitVec n) (y y' : BitVec m) : x ++ y = x' ++ y' ↔ x = x' ∧ y = y' := by
  constructor
  · intro h
    have h1 := congrArg (BitVec.extractLsb' m n) h
    have h2 := congrArg (BitVec.extractLsb' 0 m) h
    simpa [BitVec.extractLsb'_append_eq_left, BitVec.extractLsb'_append_eq_right] using And.intro h1 h2
  · rintro ⟨rfl, rfl⟩; rfl
/-- A field of a word is its two halves appended. -/
theorem extract_split {k : Nat} (n m : Nat) (w : BitVec k) (p : Nat) :
    w.extractLsb' p (n + m) = w.extractLsb' (p + m) n ++ w.extractLsb' p m := by
  ext i hi
  simp only [BitVec.getElem_append, BitVec.getElem_extractLsb']
  split
  · rfl
  · congr 1; omega

/-- What a row that `cls` and `sub` select compares (R70, R74). -/
theorem TxWord.and_maskClass_eq_iff (w : TxWord) (c s : BitVec 4) (pat : TxWord) (hp : pat = (c ++ s) ++ 0#32) :
    w &&& maskClass = pat ↔ w.cls = c ∧ w.sub = s := by
  have hw : w.extractLsb' 32 8 = w.cls ++ w.sub := extract_split 4 4 w 32
  have e : w &&& maskClass = (w.extractLsb' 32 8 &&& 0xFF#8) ++ (w.extractLsb' 0 32 &&& 0#32) :=
    and_append (n := 8) (m := 32) w 0xFF#8 0#32
  have h8 : w.extractLsb' 32 8 &&& 0xFF#8 = w.extractLsb' 32 8 := BitVec.and_allOnes
  rw [e, hp, h8, BitVec.and_zero, hw]
  refine (append_inj_iff (n := 8) (m := 32) _ _ _ _).trans ?_
  rw [append_inj_iff]
  simp

/-- What a row that `cls`, `sub` and the port select compares (R70, R74). -/
theorem TxWord.and_maskPort_eq_iff (w : TxWord) (c s : BitVec 4) (p : Port) (pat : TxWord)
    (hp : pat = (c ++ s) ++ (0#8 ++ (p ++ 0#16) : BitVec 32)) :
    w &&& maskPort = pat ↔ w.cls = c ∧ w.sub = s ∧ w.port = p := by
  have hw : w.extractLsb' 32 8 = w.cls ++ w.sub := extract_split 4 4 w 32
  have e : w &&& maskPort = (w.extractLsb' 32 8 &&& 0xFF#8) ++ (w.extractLsb' 0 32 &&& 0x00FF0000#32) :=
    and_append (n := 8) (m := 32) w 0xFF#8 0x00FF0000#32
  have e2 : w.extractLsb' 0 32 &&& 0x00FF0000#32 = 0#8 ++ (w.port ++ 0#16) := by
    refine (and_append (n := 8) (m := 24) (w.extractLsb' 0 32) 0#8 0xFF0000#24).trans ?_
    refine (append_inj_iff (n := 8) (m := 24) _ _ _ _).mpr ⟨BitVec.and_zero, ?_⟩
    refine (and_append (n := 8) (m := 16) ((w.extractLsb' 0 32).extractLsb' 0 24) 0xFF#8 0#16).trans ?_
    refine (append_inj_iff (n := 8) (m := 16) _ _ _ _).mpr ⟨?_, BitVec.and_zero⟩
    refine BitVec.and_allOnes.trans ?_
    ext i hi
    simp [TxWord.port, BitVec.getElem_extractLsb']
  have h8 : w.extractLsb' 32 8 &&& 0xFF#8 = w.extractLsb' 32 8 := BitVec.and_allOnes
  rw [e, hp, h8, e2, hw]
  refine (append_inj_iff (n := 8) (m := 32) _ _ _ _).trans ?_
  rw [append_inj_iff]
  have : (0#8 ++ (w.port ++ 0#16) : BitVec 32) = 0#8 ++ (p ++ 0#16) ↔ w.port = p := by
    refine (append_inj_iff (n := 8) (m := 24) _ _ _ _).trans ?_
    rw [append_inj_iff]; simp
  rw [this, and_assoc]

section Fields

variable (c s : BitVec 4) (a : Addr) (d : Word) (p : Port) (v : Byte)

@[simp] theorem TxWord.cls_packWord : (packWord c s a d).cls = c := by
  ext i hi
  simp [TxWord.cls, packWord, BitVec.getElem_extractLsb']
  try grind

@[simp] theorem TxWord.sub_packWord : (packWord c s a d).sub = s := by
  ext i hi
  simp [TxWord.sub, packWord, BitVec.getElem_extractLsb']
  try grind

@[simp] theorem TxWord.addr_packWord : (packWord c s a d).addr = a := by
  ext i hi
  simp [TxWord.addr, packWord, BitVec.getElem_extractLsb']
  try grind

@[simp] theorem TxWord.data_packWord : (packWord c s a d).data = d := by
  ext i hi
  simp [TxWord.data, packWord, BitVec.getElem_extractLsb']
  try grind

@[simp] theorem TxWord.port_packWord : (packWord c s a d).port = a.extractLsb' 0 8 := by
  ext i hi
  simp [TxWord.port, packWord, BitVec.getElem_extractLsb']
  grind

@[simp] theorem TxWord.byte_packWord : (packWord c s a d).byte = d.extractLsb' 0 8 := by
  ext i hi
  simp [TxWord.byte, packWord, BitVec.getElem_extractLsb']
  grind

@[simp] theorem TxWord.row_packWord : (packWord c s a d).row = d.extractLsb' 8 8 := by
  ext i hi
  simp [TxWord.row, packWord, BitVec.getElem_extractLsb']
  grind

@[simp] theorem extract_low (x y : Byte) : (x ++ y : BitVec 16).extractLsb' 0 8 = y := by
  ext i hi
  simp [BitVec.getElem_extractLsb']
  try grind

@[simp] theorem extract_high (x y : Byte) : (x ++ y : BitVec 16).extractLsb' 8 8 = x := by
  ext i hi
  simp [BitVec.getElem_extractLsb']
  try grind

end Fields

end Sys2Proof
end

