-- ==== Sys2Proof/Laws/Power.lean ====
section
/-! SUPPORT. What POWER_ON leaves, said once: the reset state, but for the store, the draws taken and what waits (70_reset_and_hazards.md R270). -/

namespace Sys2Proof.Machine

theorem State.foldl_clearDigit (l : List (Fin 9)) (s : State) :
    l.foldl State.clearDigit s =
      { s with
        digits := l.foldl (fun (v : Vector Digit 9) (d : Fin 9) => v.set d darkDigit) s.digits
        segTrace := s.segTrace ++ l.flatMap fun d => paintEvents d Config.blank } := by
  induction l generalizing s with
  | nil => simp
  | cons d l ih => rw [List.foldl_cons, ih, State.clearDigit_eq]; simp

theorem foldl_set_darkDigit (v : Vector Digit 9) :
    allDigits.foldl (fun (v : Vector Digit 9) (d : Fin 9) => v.set d darkDigit) v = Vector.replicate 9 darkDigit := by
  ext i hi
  simp only [allDigits, List.foldl_cons, List.foldl_nil, Vector.getElem_set, Vector.getElem_replicate]
  rcases i with _ | _ | _ | _ | _ | _ | _ | _ | _ | i
  all_goals first | rfl | omega

theorem State.powerOn_eq (s : State) :
    s.powerOn =
      { State.reset with store := s.store, draws := s.draws, inputs := s.inputs, started := s.started } := by
  simp only [State.powerOn, State.foldl_clearDigit, foldl_set_darkDigit]
  rfl

end Sys2Proof.Machine
end

