-- ==== Sys2Proof/Laws/Step.lean ====
section
/-! SUPPORT. Everything a step can do, and the preconditions of the host events, each said once. -/

namespace Sys2Proof.Machine

@[simp] theorem betweenTicks_eq_next (s go t : State) : betweenTicks s go = .next t ↔ s.inTick = false ∧ t = go := by
  unfold betweenTicks
  cases h : s.inTick <;> simp [eq_comm]

@[simp] theorem keyEvent_eq_next (row code : Byte) (s t : State) :
    keyEvent row code s = .next t ↔
      ∃ h : row.toNat < 9, s.inTick = false ∧ t = s.setKeyRow ⟨row.toNat, h⟩ code := by
  unfold keyEvent
  split <;> simp [*]

@[simp] theorem afterInput_eq_next (r : Result) (t : State) :
    afterInput r = .next t ↔ ∃ u, r = .next u ∧ t = u.markStarted := by
  cases r <;> simp [afterInput, eq_comm]

@[simp] theorem applyWord_eq_next (w : TxWord) (s t : State) :
    applyWord w s = .next t ↔ ∃ i, decode w = .ok i ∧ exec i s = .next t := by
  unfold applyWord
  cases h : decode w <;> simp

@[simp] theorem cpuReturn_eq_next (cost : Nat) (s t : State) :
    cpuReturn cost s = .next t ↔ s.inTick = true ∧ t = s.stepReturned cost := by
  unfold cpuReturn
  cases h : s.inTick <;> simp [eq_comm]

/-- Everything a step can do: idle, apply a transaction or an event, or take a CPU step's return. -/
theorem step_next_cases (s t : State) (h : step s = .next t) :
    (s.inputs = [] ∧ t = s) ∨
    (∃ w rest i u, s.inputs = .word w :: rest ∧ decode w = .ok i ∧ exec i s.popInput = .next u ∧ t = u.markStarted) ∨
    (∃ cost rest, s.inputs = .cpuReturn cost :: rest ∧ s.inTick = true ∧
      t = (s.popInput.stepReturned cost).markStarted) := by
  unfold step at h
  split at h
  · simp only [Host.Outcome.next.injEq] at h; exact .inl ⟨‹_›, h.symm⟩
  · rename_i w rest heq
    simp only [afterInput_eq_next, applyWord_eq_next] at h
    obtain ⟨u, ⟨i, hi, hu⟩, rfl⟩ := h
    exact .inr (.inl ⟨w, rest, i, u, heq, hi, hu, rfl⟩)
  · rename_i cost rest heq
    simp only [afterInput_eq_next, cpuReturn_eq_next] at h
    obtain ⟨u, ⟨hi, rfl⟩, rfl⟩ := h
    exact .inr (.inr ⟨cost, rest, heq, by simpa using hi, rfl⟩)

end Sys2Proof.Machine
end

