-- ==== Sys2Proof/Laws/Scheduler.lean ====
section
/-! SUPPORT. What the return of a CPU step does to a tick, said once (45_iobus_scheduler.md R214, R215). -/

namespace Sys2Proof.Machine

/-- Below the budget the next CPU step is called; at or above it the display ages and the tick ends. -/
theorem State.stepReturned_cases (s : State) (cost : Nat) :
    (s.acc + cost < 1100 ∧
      s.stepReturned cost = { s with acc := s.acc + cost, cpuCalls := s.cpuCalls ++ [.step] }) ∨
    (1100 ≤ s.acc + cost ∧
      s.stepReturned cost = { ({ s with acc := s.acc + cost } : State).agePass with inTick := false }) := by
  unfold State.stepReturned
  by_cases h : 1100 ≤ s.acc + cost
  · exact .inr ⟨h, by simp [h, State.endTick]⟩
  · exact .inl ⟨by omega, by simp [h, State.callCpu]⟩

end Sys2Proof.Machine
end

