-- ==== Sys2Proof/Laws/Exec.lean ====
section
/-! SUPPORT. Everything a transaction or an event can do when it completes, said once: the parts of the state it may write, and what a write keeps. -/

namespace Sys2Proof.Machine

/-- What an instruction that completes does to a state. Each constructor names the instructions it is about and writes only
the fields it shows. -/
inductive Effect (s : State) : Instr → State → Prop where
  /-- Nothing at all: an unmapped write, a blank pattern, an absent expander, a TICK while Stopped. -/
  | nothing (i : Instr) : Effect s i s
  /-- A byte or a word is returned. -/
  | returns (i : Instr) (r : List BusResult) : Effect s i { s with returned := r }
  /-- RAM is written by MEMW or MEMW16. -/
  | memory (i : Instr) (m : Memory) (hi : (∃ a v, i = .memw a v) ∨ ∃ a w, i = .memw16 a w)
      (hm : s.ram.wf = true → m.wf = true) : Effect s i { s with ram := m }
  /-- `cathode` is set. -/
  | strobe (v : Byte) : Effect s (.iowCath v) { s with cathode := cathodeOf v }
  /-- A digit is refreshed with a pattern that is not blank. -/
  | refresh (v : Byte) (d : Fin 9) (p : BitVec 7) (hp : p ≠ Config.blank) : Effect s (.iowSeg v) (s.refreshDigit d p)
  /-- A save, with its redirection. -/
  | save (v : Byte) (st : Store) (sc : List StoreCall) (n : Nat) (r : BlockResult)
      (hs : s.store.wf = true → st.wf = true) :
      Effect s (.iowSave v) ({ s with store := st, storeCalls := sc, draws := n }.redirect r)
  /-- A load, with its redirection. -/
  | load (v : Byte) (m : Memory) (sc : List StoreCall) (n : Nat) (r : BlockResult)
      (hm : s.ram.wf = true → m.wf = true) :
      Effect s (.iowLoad v) ({ s with ram := m, storeCalls := sc, draws := n }.redirect r)
  /-- The expander is read or written. -/
  | expander (i : Instr) (ec : List ExpCall) (n : Nat) (r : List BusResult) (hp : s.expPresent = true) :
      Effect s i { s with expCalls := ec, draws := n, returned := r }
  /-- The expander's directions are set. -/
  | directions (v : Byte) (a b : Direction) (ec : List ExpCall) (hp : s.expPresent = true) :
      Effect s (.iowExpctl v) { s with expDirA := a, expDirB := b, expCalls := ec }
  /-- A key row is set. -/
  | keyRow (i : Instr) (row : Fin 9) (code : Byte) (hi : (∃ r c, i = .keyDown r c) ∨ ∃ r, i = .keyUp r) :
      Effect s i (s.setKeyRow row code)
  /-- A tick begins. -/
  | tickBegins (hr : s.run = .running) : Effect s .tick s.beginTick
  /-- The run state is set. -/
  | runState (i : Instr) (r : RunState) (ht : s.inTick = false)
      (hi : i = .runToggle ∨ i = .runStart ∧ r = .running ∨ i = .runStop ∧ r = .stopped) : Effect s i { s with run := r }
  /-- The CPU is reset or interrupted. -/
  | cpuCall (i : Instr) (c : CpuCall)
      (hi : i = .resetCmd ∧ c = .reset ∨ i = .intCmd ∧ c = .raiseInterrupt Config.intVector) :
      Effect s i (s.callCpu c)
  /-- Power-on. -/
  | power (hs : s.started = false) : Effect s .powerOn s.powerOn

/-- The parts of the state a save writes (R166). -/
theorem State.save_writes (s : State) (id : Byte) (start length : Nat) :
    ∃ st sc n, (s.save id start length).2 = { s with store := st, storeCalls := sc, draws := n } ∧
      (s.store.wf = true → st.wf = true) := by
  rcases s.save_cases id start length with ⟨_, e⟩ | ⟨_, _, e⟩ | ⟨_, _, e⟩ <;> rw [e]
  · exact ⟨s.store, s.storeCalls, s.draws, rfl, fun h => h⟩
  all_goals exact ⟨_, _, _, rfl, fun h => Store.wf_put _ _ _ h⟩

/-- The parts of the state a load writes (R167). -/
theorem State.load_writes (s : State) (id : Byte) (start : Nat) :
    ∃ m sc n, (s.load id start).2 = { s with ram := m, storeCalls := sc, draws := n } ∧
      (s.ram.wf = true → m.wf = true) := by
  rcases s.load_cases id start with ⟨_, e⟩ | ⟨_, _, e⟩ | ⟨_, _, _, _, e⟩ | ⟨obj, _, ho, hl, e⟩ <;> rw [e]
  iterate 3 exact ⟨s.ram, _, _, rfl, fun h => h⟩
  rcases (s.callStore (.lookup (Config.blockName id))).loadCopy_cases (Config.blockName id) start obj.length with
    ⟨_, e2⟩ | ⟨bytes, h1, e2⟩ <;> rw [e2]
  · exact ⟨_, _, _, rfl, fun h => Memory.wf_writeRange _ _ _ h (by simp [State.failedReadBytes]; omega)⟩
  · refine ⟨_, _, _, rfl, fun h => Memory.wf_writeRange _ _ _ h ?_⟩
    simp only [State.readResult] at h1
    split at h1
    · cases h1
    · have : s.store.get (Config.blockName id) = some bytes := h1
      rw [ho] at this
      cases this
      exact hl

/-- A write to the display changes nothing, or refreshes one digit with a pattern that is not blank (R140). -/
theorem State.setDigit_cases (s : State) (v : Byte) :
    s.setDigit v = s ∨ ∃ d p, p ≠ Config.blank ∧ s.setDigit v = s.refreshDigit d p := by
  unfold State.setDigit
  split
  · exact .inl rfl
  · split
    · exact .inr ⟨_, _, ‹_›, rfl⟩
    · exact .inl rfl

/-- Everything an instruction can do when it completes. -/
theorem exec_effect (i : Instr) (s t : State) (h : exec i s = .next t) : Effect s i t := by
  cases i with
  | memr | memr16 | iorKbd | iorFloat => injection h with h; subst h; exact .returns _ _
  | memw a v =>
    injection h with h; subst h
    exact .memory _ _ (.inl ⟨a, v, rfl⟩) fun hw => Memory.wf_write _ _ _ hw (ramOffset_lt _)
  | memw16 a w =>
    injection h with h; subst h
    exact .memory _ _ (.inr ⟨a, w, rfl⟩) fun hw =>
      Memory.wf_write _ _ _ (Memory.wf_write _ _ _ hw (ramOffset_lt _)) (ramOffset_lt _)
  | iowCath v => injection h with h; subst h; exact .strobe v
  | iowSeg v =>
    injection h with h; subst h
    rcases s.setDigit_cases v with e | ⟨d, p, hp, e⟩ <;> rw [e]
    · exact .nothing _
    · exact .refresh v d p hp
  | iowSave v =>
    injection h with h; subst h
    obtain ⟨st, sc, n, e, hs⟩ := s.save_writes s.blockParams.id s.blockParams.start s.blockParams.length
    simp only [e]
    exact .save v st sc n _ hs
  | iowLoad v =>
    injection h with h; subst h
    obtain ⟨m, sc, n, e, hm⟩ := s.load_writes s.blockParams.id s.blockParams.start
    simp only [e]
    exact .load v m sc n _ hm
  | iorExpa | iorExpb =>
    injection h with h; subst h; unfold State.expIn
    split
    · exact .expander _ _ _ _ ‹_›
    · exact .returns _ _
  | iowExpa | iowExpb =>
    injection h with h; subst h; unfold State.expOut
    split
    · exact .expander _ _ s.draws s.returned ‹_›
    · exact .nothing _
  | iowExpctl v =>
    injection h with h; subst h; unfold State.expControl
    split
    · rename_i hp
      simp only [Bool.and_eq_true] at hp
      exact .directions v _ _ _ hp.1
    · exact .nothing _
  | iowNop => injection h with h; subst h; exact .nothing _
  | tick =>
    obtain ⟨_, rfl⟩ := (betweenTicks_eq_next _ _ _).mp h
    split
    · exact .tickBegins ‹_›
    · exact .nothing _
  | keyDown r c =>
    obtain ⟨_, _, rfl⟩ := (keyEvent_eq_next _ _ _ _).mp h
    exact .keyRow _ _ _ (.inl ⟨r, c, rfl⟩)
  | keyUp r =>
    obtain ⟨_, _, rfl⟩ := (keyEvent_eq_next _ _ _ _).mp h
    exact .keyRow _ _ _ (.inr ⟨r, rfl⟩)
  | runToggle =>
    obtain ⟨ht, rfl⟩ := (betweenTicks_eq_next _ _ _).mp h
    exact .runState _ _ ht (.inl rfl)
  | runStart =>
    obtain ⟨ht, rfl⟩ := (betweenTicks_eq_next _ _ _).mp h
    exact .runState _ _ ht (.inr (.inl ⟨rfl, rfl⟩))
  | runStop =>
    obtain ⟨ht, rfl⟩ := (betweenTicks_eq_next _ _ _).mp h
    exact .runState _ _ ht (.inr (.inr ⟨rfl, rfl⟩))
  | resetCmd =>
    obtain ⟨_, rfl⟩ := (betweenTicks_eq_next _ _ _).mp h
    exact .cpuCall _ _ (.inl ⟨rfl, rfl⟩)
  | intCmd =>
    obtain ⟨_, rfl⟩ := (betweenTicks_eq_next _ _ _).mp h
    exact .cpuCall _ _ (.inr ⟨rfl, rfl⟩)
  | powerOn =>
    simp only [exec, execPowerOn] at h
    split at h
    · cases h
    · rename_i hs
      injection h with h; subst h
      exact .power (by simpa using hs)

/-- What a bus transaction leaves alone: the scheduler's state, the queue, and the number of CPU steps called (R33, R213). -/
theorem exec_transaction_frame (i : Instr) (s t : State) (hi : isTransaction i = true) (h : exec i s = .next t) :
    t.run = s.run ∧ t.inTick = s.inTick ∧ t.acc = s.acc ∧ t.inputs = s.inputs ∧ t.started = s.started ∧
      t.cpuCalls.count .step = s.cpuCalls.count .step := by
  cases exec_effect i s t h with
  | refresh => rw [State.refreshDigit_eq]; exact ⟨rfl, rfl, rfl, rfl, rfl, rfl⟩
  | save | load => simp [State.redirect, State.callCpu]
  | keyRow _ _ _ hk => obtain ⟨_, _, rfl⟩ | ⟨_, rfl⟩ := hk <;> cases hi
  | tickBegins | power => cases hi
  | runState _ _ _ hr => obtain rfl | ⟨rfl, _⟩ | ⟨rfl, _⟩ := hr <;> cases hi
  | cpuCall _ _ hc => obtain ⟨rfl, _⟩ | ⟨rfl, _⟩ := hc <;> cases hi
  | _ => exact ⟨rfl, rfl, rfl, rfl, rfl, rfl⟩

end Sys2Proof.Machine
end

