-- ==== Sys2Proof/Laws/PerInstr.lean ====
section
/-! SUPPORT. For each instruction: its encoding is a word of its own row of the opcode table, and that row reads the instruction back from it (30_encoding.md R70, R74, R82). -/

namespace Sys2Proof.Laws.EncodedRow

/-- The encoding of the instruction is a word of a row of the table that reads the instruction back. -/
def Statement (i : Instr) : Prop := ∃ r ∈ opcodeTable, r.covers (encode i) = true ∧ r.build (encode i) = i

/-- The statement from the position of the instruction's row. -/
theorem of_row (i : Instr) (n : Nat) (hn : n < opcodeTable.length)
    (hc : encode i &&& opcodeTable[n].mask = opcodeTable[n].pat) (hb : opcodeTable[n].build (encode i) = i) :
    Statement i :=
  ⟨opcodeTable[n], List.getElem_mem hn, by simpa [Row.covers] using hc, hb⟩

/-- A row that `cls` and `sub` select covers the words packed with them. -/
theorem covers_packed_class (c s : BitVec 4) (a : Addr) (d : Word) (pat : TxWord) (hp : pat = (c ++ s) ++ 0#32) :
    packWord c s a d &&& maskClass = pat := (TxWord.and_maskClass_eq_iff _ c s pat hp).mpr (by simp)

/-- A row that `cls`, `sub` and the port select covers the words packed with them. -/
theorem covers_packed_io (c : BitVec 4) (p : Port) (v : Byte) (pat : TxWord)
    (hp : pat = (c ++ 0#4) ++ (0#8 ++ (p ++ 0#16) : BitVec 32)) : packIo c p v &&& maskPort = pat :=
  (TxWord.and_maskPort_eq_iff _ c 0#4 p pat hp).mpr (by simp [packIo])

theorem memr (a : Addr) : Statement (.memr a) :=
  of_row _ 0 (by decide) (covers_packed_class _ _ _ _ _ rfl)
    (by simp [opcodeTable, memoryRows, encode])

theorem memw (a : Addr) (v : Byte) : Statement (.memw a v) :=
  of_row _ 1 (by decide) (covers_packed_class _ _ _ _ _ rfl)
    (by simp [opcodeTable, memoryRows, encode])

theorem memr16 (a : Addr) : Statement (.memr16 a) :=
  of_row _ 2 (by decide) (covers_packed_class _ _ _ _ _ rfl)
    (by simp [opcodeTable, memoryRows, encode])

theorem memw16 (a : Addr) (w : Word) : Statement (.memw16 a w) :=
  of_row _ 3 (by decide) (covers_packed_class _ _ _ _ _ rfl)
    (by simp [opcodeTable, memoryRows, encode])

theorem iorKbd : Statement .iorKbd :=
  of_row _ 4 (by decide) (covers_packed_io _ _ _ _ rfl)
    (by simp [opcodeTable, memoryRows, portRows, encode, packIo])

theorem iowCath (v : Byte) : Statement (.iowCath v) :=
  of_row _ 5 (by decide) (covers_packed_io _ _ _ _ rfl)
    (by simp [opcodeTable, memoryRows, portRows, encode, packIo])

theorem iowSeg (v : Byte) : Statement (.iowSeg v) :=
  of_row _ 6 (by decide) (covers_packed_io _ _ _ _ rfl)
    (by simp [opcodeTable, memoryRows, portRows, encode, packIo])

theorem iowSave (v : Byte) : Statement (.iowSave v) :=
  of_row _ 7 (by decide) (covers_packed_io _ _ _ _ rfl)
    (by simp [opcodeTable, memoryRows, portRows, encode, packIo])

theorem iowLoad (v : Byte) : Statement (.iowLoad v) :=
  of_row _ 8 (by decide) (covers_packed_io _ _ _ _ rfl)
    (by simp [opcodeTable, memoryRows, portRows, encode, packIo])

theorem iorExpa : Statement .iorExpa :=
  of_row _ 9 (by decide) (covers_packed_io _ _ _ _ rfl)
    (by simp [opcodeTable, memoryRows, portRows, encode, packIo])

theorem iorExpb : Statement .iorExpb :=
  of_row _ 10 (by decide) (covers_packed_io _ _ _ _ rfl)
    (by simp [opcodeTable, memoryRows, portRows, encode, packIo])

theorem iowExpa (v : Byte) : Statement (.iowExpa v) :=
  of_row _ 11 (by decide) (covers_packed_io _ _ _ _ rfl)
    (by simp [opcodeTable, memoryRows, portRows, encode, packIo])

theorem iowExpb (v : Byte) : Statement (.iowExpb v) :=
  of_row _ 12 (by decide) (covers_packed_io _ _ _ _ rfl)
    (by simp [opcodeTable, memoryRows, portRows, encode, packIo])

theorem iowExpctl (v : Byte) : Statement (.iowExpctl v) :=
  of_row _ 13 (by decide) (covers_packed_io _ _ _ _ rfl)
    (by simp [opcodeTable, memoryRows, portRows, encode, packIo])

theorem iorFloat (p : Port) : Statement (.iorFloat p) :=
  of_row _ 14 (by decide) (covers_packed_class _ _ _ _ _ rfl)
    (by simp [opcodeTable, memoryRows, portRows, encode, packIo])

theorem iowNop (p : Port) (v : Byte) : Statement (.iowNop p v) :=
  of_row _ 15 (by decide) (covers_packed_class _ _ _ _ _ rfl)
    (by simp [opcodeTable, memoryRows, portRows, encode, packIo])

theorem tick : Statement .tick :=
  of_row _ 16 (by decide) (covers_packed_class _ _ _ _ _ rfl)
    (by simp [opcodeTable, memoryRows, portRows, hostRows, encode, packHost])

theorem keyDown (row code : Byte) : Statement (.keyDown row code) :=
  of_row _ 17 (by decide) (covers_packed_class _ _ _ _ _ rfl)
    (by simp [opcodeTable, memoryRows, portRows, hostRows, encode, packHost])

theorem keyUp (row : Byte) : Statement (.keyUp row) :=
  of_row _ 18 (by decide) (covers_packed_class _ _ _ _ _ rfl)
    (by simp [opcodeTable, memoryRows, portRows, hostRows, encode, packHost])

theorem runToggle : Statement .runToggle :=
  of_row _ 19 (by decide) (covers_packed_class _ _ _ _ _ rfl)
    (by simp [opcodeTable, memoryRows, portRows, hostRows, encode, packHost])

theorem runStart : Statement .runStart :=
  of_row _ 20 (by decide) (covers_packed_class _ _ _ _ _ rfl)
    (by simp [opcodeTable, memoryRows, portRows, hostRows, encode, packHost])

theorem runStop : Statement .runStop :=
  of_row _ 21 (by decide) (covers_packed_class _ _ _ _ _ rfl)
    (by simp [opcodeTable, memoryRows, portRows, hostRows, encode, packHost])

theorem resetCmd : Statement .resetCmd :=
  of_row _ 22 (by decide) (covers_packed_class _ _ _ _ _ rfl)
    (by simp [opcodeTable, memoryRows, portRows, hostRows, encode, packHost])

theorem intCmd : Statement .intCmd :=
  of_row _ 23 (by decide) (covers_packed_class _ _ _ _ _ rfl)
    (by simp [opcodeTable, memoryRows, portRows, hostRows, encode, packHost])

theorem powerOn : Statement .powerOn :=
  of_row _ 24 (by decide) (covers_packed_class _ _ _ _ _ rfl)
    (by simp [opcodeTable, memoryRows, portRows, hostRows, encode, packHost])

end Sys2Proof.Laws.EncodedRow
end

