-- ==== Sys2Proof/Machine/Assembly.lean ====
section
/-! DEFINITION. The spec's assembly syntax (30_encoding.md R84) as a rendering of what is delivered, and the pseudo-transactions with their expansions (R85). Nothing in the machine reads this file. -/

namespace Sys2Proof.Machine

/-! ## Pseudo-transactions (R85) -/

/-- The pseudo-transactions. A logical key `k` is a number (log 18). -/
inductive Pseudo where
  | select (d : BitVec 4)
  | showAt (d : BitVec 4) (p : Byte)
  | scan (r : BitVec 4)
  | setblk (id hi lo : Byte)
  | save
  | load
  | expcfg (a b : Direction)
  | press (k : Nat)
  | release (k : Nat)
  deriving DecidableEq, Repr

/-- `0xFF - d`: the canonical byte that selects index `d` (R76). -/
def selectByte (d : BitVec 4) : Byte := 0xFF#8 - d.setWidth 8

/-- `0x80 | (a = IN ? 0x10 : 0) | (b = IN ? 0x02 : 0)` (R85). -/
def expcfgByte (a b : Direction) : Byte :=
  0x80#8 ||| (if a = .input then 0x10#8 else 0#8) ||| (if b = .input then 0x02#8 else 0#8)

/-- The transactions or events a pseudo-transaction stands for (R85). -/
def Pseudo.expand : Pseudo → List Instr
  | .select d => [.iowCath (selectByte d)]
  | .showAt d p => [.iowCath (selectByte d), .iowSeg p]
  | .scan r => [.iowCath (selectByte r), .iorKbd]
  | .setblk id hi lo => [.memw 0x1FF8#16 lo, .memw 0x1FF9#16 hi, .memw 0x1FFA#16 id]
  | .save => [.iowSave 0#8]
  | .load => [.iowLoad 0#8]
  | .expcfg a b => [.iowExpctl (expcfgByte a b)]
  | .press k => [.keyDown (BitVec.ofNat 8 (Config.keyTable k).1.val) (Config.keyTable k).2]
  | .release k => [.keyUp (BitVec.ofNat 8 (Config.keyTable k).1.val)]

/-! ## Text (R84; log 22) -/

/-- A hexadecimal digit. -/
def hexDigit (n : Nat) : Char := "0123456789ABCDEF".toList.getD (n % 16) '0'

/-- The low hexadecimal digits of a number, the most significant first. -/
def hexDigits : Nat → Nat → List Char
  | 0, _ => []
  | k + 1, n => hexDigits k (n / 16) ++ [hexDigit n]

/-- `0x` and a fixed number of hexadecimal digits. -/
def hexText (width n : Nat) : String := "0x" ++ String.ofList (hexDigits width n)

/-- A byte or a port in hexadecimal. -/
def byteText (v : Byte) : String := hexText 2 v.toNat

/-- An address or a word in hexadecimal. -/
def wordText (w : Word) : String := hexText 4 w.toNat

/-- `IOR p`. -/
def iorText (p : Port) : String := "IOR " ++ byteText p

/-- `IOW p, v`. -/
def iowText (p : Port) (v : Byte) : String := "IOW " ++ byteText p ++ ", " ++ byteText v

/-- A transaction or event in the spec's assembly syntax (R84). -/
def asmText : Instr → String
  | .memr a => "MEMR " ++ wordText a
  | .memw a v => "MEMW " ++ wordText a ++ ", " ++ byteText v
  | .memr16 a => "MEMR16 " ++ wordText a
  | .memw16 a w => "MEMW16 " ++ wordText a ++ ", " ++ wordText w
  | .iorKbd => iorText 0xFA#8
  | .iowCath v => iowText 0xFA#8 v
  | .iowSeg v => iowText 0xF8#8 v
  | .iowSave v => iowText 0x5A#8 v
  | .iowLoad v => iowText 0xAD#8 v
  | .iorExpa => iorText 0xF4#8
  | .iorExpb => iorText 0xF5#8
  | .iowExpa v => iowText 0xF4#8 v
  | .iowExpb v => iowText 0xF5#8 v
  | .iowExpctl v => iowText 0xF7#8 v
  | .iorFloat p => iorText p
  | .iowNop p v => iowText p v
  | .tick => "TICK"
  | .keyDown row code => "KEY_DOWN " ++ byteText row ++ ", " ++ byteText code
  | .keyUp row => "KEY_UP " ++ byteText row
  | .runToggle => "RUN_TOGGLE"
  | .runStart => "RUN_START"
  | .runStop => "RUN_STOP"
  | .resetCmd => "RESET_CMD"
  | .intCmd => "INT_CMD"
  | .powerOn => "POWER_ON"

/-- The lines of what is delivered, a CPU step's transactions indented under its `STEP cost=n`, which stands under its
TICK (R84). `inStep` holds the lines of the CPU step that has not returned yet. -/
def asmLines (inStep : List String) : List Input → List String
  | [] => inStep
  | .word w :: rest =>
    match decode w with
    | .ok i => if w.cls = 0x8#4 then inStep ++ asmText i :: asmLines [] rest
               else asmLines (inStep ++ ["    " ++ asmText i]) rest
    | .error _ => asmLines inStep rest
  | .cpuReturn cost :: rest => ("  STEP cost=" ++ toString cost) :: inStep ++ asmLines [] rest

end Sys2Proof.Machine
end

