-- ==== Sys2Proof/Tests/Slice0.lean ====
section
/-! SUPPORT. Tests: the smoke test of WellFormed, every constructor's decoding from a word written out by the rules, at most two small tests per instruction, and for every statement with hypotheses a state that meets them. Expected results come from 95_test_vectors.md or are worked out by hand from the rule named. -/

namespace Sys2Proof.Tests

open Sys2Proof Sys2Proof.Machine

/-! ## Helpers -/

/-- The state after one word is delivered and applied. -/
def applied (s : State) (w : Nat) : Option State :=
  match step (s.withFetchWord 40 w) with
  | .next t => some t
  | _ => none

/-- Why a word delivered is refused. -/
def refusal (s : State) (w : Nat) : Option Refusal :=
  match step (s.withFetchWord 40 w) with
  | .refused r => some r
  | _ => none

/-- A step's next state. -/
def nextOf : Result → Option State
  | .next t => some t
  | _ => none

/-- Four ROM bytes, and RAM bytes at offsets 0x0010, 0x1000, 0x1001 and 0x1FFF. -/
def small : State :=
  { State.reset with
    rom := [0xC3#8, 0x01#8, 0x02#8, 0x03#8]
    ram := [(0x0000, 0x12#8), (0x0010, 0xAB#8), (0x1000, 0x34#8), (0x1001, 0x12#8), (0x1FFF, 0x34#8)] }

/-- Digit 0 selected. -/
def digit0 : State := { State.reset with cathode := 0#4 }

/-- Digit 0 selected and holding a pattern with a decay. -/
def lit (p : BitVec 7) (n : Nat) : State :=
  { digit0 with digits := digit0.digits.set 0 { segs := segsOf p, decay := n, lastSeen := p } }

/-- The block-store cells: lo, hi, id. -/
def cells (lo hi id : Byte) : State := { State.reset with ram := [(0x1FF8, lo), (0x1FF9, hi), (0x1FFA, id)] }

/-- Running, between ticks. -/
def running : State := { State.reset with run := .running }

/-- Inside a Running tick with cycles accumulated. -/
def ticking (n : Nat) : State := { State.reset with run := .running, inTick := true, acc := n }

/-- Digit 0's `decay` and `last_seen`. -/
def digit0Of (s : State) : Nat × BitVec 7 := (s.digits[0].decay, s.digits[0].lastSeen)

/-! ## WellFormed refuses each ill-formed term -/

theorem test_wf_refuses_float_on_a_read_port :
    ([0xF4#8, 0xF5#8, 0xFA#8].all fun p => !(Instr.iorFloat p).wf) = true := by decide

theorem test_wf_refuses_nop_on_a_write_port :
    ([0xF4#8, 0xF5#8, 0xF7#8, 0xF8#8, 0xFA#8, 0x5A#8, 0xAD#8].all fun p => !(Instr.iowNop p 0#8).wf) = true := by
  decide

theorem test_wf_refuses_key_down_of_row_9 : (Instr.keyDown 9#8 0#8).wf = false := by decide

theorem test_wf_refuses_key_up_of_row_9 : (Instr.keyUp 9#8).wf = false := by decide

theorem test_wf_accepts_the_write_only_ports_as_floating : (Instr.iorFloat 0xF7#8).wf = true := by decide

/-! ## Decoding: the words of 95_test_vectors.md and of R82's table, by hand -/

theorem test_decode_memory_words :
    decode 0x0023FF0000#40 = .ok (.memr 0x23FF#16) ∧ decode 0x10E1230077#40 = .ok (.memw 0xE123#16 0x77#8) ∧
    decode 0x201FFF0000#40 = .ok (.memr16 0x1FFF#16) ∧ decode 0x300101CAFE#40 = .ok (.memw16 0x0101#16 0xCAFE#16) := by
  decide

theorem test_decode_keyboard_words :
    decode 0x4000FA0000#40 = .ok .iorKbd ∧ decode 0x5000FA0087#40 = .ok (.iowCath 0x87#8) ∧
    decode 0x810000023F#40 = .ok (.keyDown 2#8 0x3F#8) ∧ decode 0x8200000200#40 = .ok (.keyUp 2#8) := by decide

theorem test_decode_display_words :
    decode 0x5000F80040#40 = .ok (.iowSeg 0x40#8) ∧ decode 0x5000F800C0#40 = .ok (.iowSeg 0xC0#8) := by decide

theorem test_decode_block_store_words :
    decode 0x50005A0000#40 = .ok (.iowSave 0#8) ∧ decode 0x5000AD0000#40 = .ok (.iowLoad 0#8) := by decide

theorem test_decode_expansion_words :
    decode 0x4000F40000#40 = .ok .iorExpa ∧ decode 0x4000F50000#40 = .ok .iorExpb ∧
    decode 0x5000F40055#40 = .ok (.iowExpa 0x55#8) ∧ decode 0x5000F500AA#40 = .ok (.iowExpb 0xAA#8) ∧
    decode 0x5000F7009B#40 = .ok (.iowExpctl 0x9B#8) := by decide

theorem test_decode_unmapped_ports :
    decode 0x4000F80000#40 = .ok (.iorFloat 0xF8#8) ∧ decode 0x4000F60000#40 = .ok (.iorFloat 0xF6#8) ∧
    decode 0x5000F90012#40 = .ok (.iowNop 0xF9#8 0x12#8) := by decide

theorem test_decode_ignores_the_high_port_byte : decode 0x4012FA0000#40 = .ok .iorKbd := by decide

theorem test_decode_scheduler_words :
    decode 0x8000000000#40 = .ok .tick ∧ decode 0x8300000000#40 = .ok .runToggle ∧
    decode 0x8400000000#40 = .ok .runStart ∧ decode 0x8500000000#40 = .ok .runStop ∧
    decode 0x8600000000#40 = .ok .resetCmd ∧ decode 0x8700000000#40 = .ok .intCmd ∧
    decode 0x8800000000#40 = .ok .powerOn := by decide

/-- 95_test_vectors.md section 2.11. -/
theorem test_decode_refuses_non_transactions :
    decode 0x6000000000#40 = .error .unusedClass ∧ decode 0x0100000000#40 = .error .busSubNotZero ∧
    decode 0x8900000000#40 = .error .unusedHostEvent ∧ decode 0xF000000000#40 = .error .unusedClass := by decide

theorem test_decodeTableWord_takes_40_bits :
    decodeTableWord 40 0x810000025F = some (.keyDown 2#8 0x5F#8) ∧ decodeTableWord 48 0x10000000000 = none := by decide

theorem test_encode_writes_the_words :
    encode (.memw16 0xFFFF#16 0x1234#16) = 0x30FFFF1234#40 ∧ encode (.iowCath 0xFD#8) = 0x5000FA00FD#40 ∧
    encode (.keyDown 8#8 0x6F#8) = 0x810000086F#40 ∧ encode .intCmd = 0x8700000000#40 := by decide

/-! ## Memory (95_test_vectors.md section 2.1) -/

theorem test_memr_rom_below_its_size :
    (applied small 0x0000000000).map (·.returned) = some [.byte 0xC3#8] := by decide

theorem test_memr_shadow_through_the_alias :
    (applied small 0x0020100000).map (·.returned) = some [.byte 0xAB#8] := by decide

/-- MEMW 0xE123, 0x77: RAM[0x0123]. -/
theorem test_memw_masks_the_address :
    ∃ t, step (small.withFetchWord 40 0x10E1230077) = .next t ∧ t.ram.read 0x0123 = 0x77#8 :=
  ⟨_, rfl, (Memory.read_write _ _ _ _).trans (by decide)⟩

theorem test_memr16_wraps_into_the_window :
    (applied small 0x201FFF0000).map (·.returned) = some [.word 0x1234#16] := by decide

theorem test_memr16_at_the_top_reads_rom_0 :
    (applied small 0x20FFFF0000).map (·.returned) = some [.word 0xC334#16] := by decide

/-- MEMW16 0x1FFF, 0xBEEF: the high byte at offset 0, the low byte at 0x1FFF. -/
theorem test_memw16_low_byte_first :
    ∃ t, step (small.withFetchWord 40 0x301FFFBEEF) = .next t ∧ t.ram.read 0x1FFF = 0xEF#8 ∧ t.ram.read 0 = 0xBE#8 :=
  ⟨_, rfl, (Memory.read_write _ _ _ _).trans ((if_neg (by decide)).trans ((Memory.read_write _ _ _ _).trans (by decide))),
    (Memory.read_write _ _ _ _).trans (by decide)⟩

/-! ## Keyboard and strobe (sections 2.2 and 2.3) -/

theorem test_iorKbd_reads_the_selected_row :
    (applied { State.reset with cathode := 8#4, keyRow := State.reset.keyRow.set 8 0x6F#8 } 0x4000FA0000).map (·.returned) =
      some [.byte 0x6F#8] := by decide

theorem test_iorKbd_row_9_is_idle :
    (applied { State.reset with cathode := 9#4, keyRow := Vector.replicate 9 0#8 } 0x4000FA0000).map (·.returned) =
      some [.byte 0x7F#8] := by decide

theorem test_iowCath_complements :
    (applied State.reset 0x5000FA00FD).map (·.cathode) = some 2#4 ∧
    (applied State.reset 0x5000FA0000).map (·.cathode) = some 15#4 := by decide

theorem test_keyDown_sets_its_row :
    (applied State.reset 0x810000025F).map (fun t => (t.keyRow[2], t.keyRow[3])) = some (0x5F#8, 0x7F#8) := by decide

theorem test_keyDown_row_9_is_refused : refusal State.reset 0x8100000900 = some .keyRowOutOfRange := by decide

theorem test_keyUp_idles_its_row :
    (applied { State.reset with keyRow := Vector.replicate 9 0x3F#8 } 0x8200000200).map
      (fun t => (t.keyRow[2], t.keyRow[1])) = some (0x7F#8, 0x3F#8) := by decide

/-! ## Display (section 2.4) -/

/-- Segments 0 to 5 lit, 6 dark; seven events. -/
theorem test_iowSeg_paints_a_dark_digit :
    (applied digit0 0x5000F80040).map (fun t => (digit0Of t, t.digits[0].segs.toList, t.segTrace.length)) =
      some ((50, 0x40#7), [true, true, true, true, true, true, false], 70) := by decide

theorem test_iowSeg_same_pattern_only_reloads :
    (applied (lit 0x00#7 20) 0x5000F80080).map (fun t => (digit0Of t, t.segTrace.length)) = some ((50, 0x00#7), 63) := by
  decide

theorem test_aging_blanks_at_zero :
    digit0Of (lit 0x40#7 1).agePass = (0, 0x7F#7) ∧ (lit 0x40#7 1).agePass.segTrace.length = 70 := by decide

theorem test_aging_counts_down : digit0Of (lit 0x40#7 2).agePass = (1, 0x40#7) := by decide

/-! ## Block store (section 2.6) -/

/-- Cells (0xFF, 0x1F): one byte from 0x1FFF. -/
theorem test_iowSave_one_byte :
    (applied { State.reset with ram := [(0x1FF8, 0xFF#8), (0x1FF9, 0x1F#8), (0x1FFA, 0x07#8), (0x1FFF, 0xA5#8)] }
      0x50005A0000).map (·.storeCalls) = some [.write ⟨7#8⟩ [0xA5#8]] := by decide

/-- Cells (0x00, 0x20): AddressRangeError. -/
theorem test_iowSave_out_of_range :
    (applied (cells 0x00#8 0x20#8 7#8) 0x50005A0000).map (fun t => (t.cpuCalls, t.storeCalls)) =
      some ([.reset, .setProgramCounter Config.vecErr], []) := rfl

/-- Cells (0xF0, 0x1F), an object of 17 bytes: AddressRangeError, once the lookup has not failed. -/
theorem test_load_17_bytes_does_not_fit :
    fitsWindow (blockStart 0xF0#8 0x1F#8) 17 = false ∧ fitsWindow (blockStart 0xF0#8 0x1F#8) 16 = true := by decide

theorem test_iowLoad_store_unavailable :
    (applied { cells 0xF0#8 0x10#8 7#8 with storeAvailable := false } 0x5000AD0000).map
      (fun t => (t.cpuCalls, t.storeCalls)) =
      some ([.reset, .setProgramCounter Config.vecErr], [.lookup ⟨7#8⟩]) := rfl

/-- The store available, holding an object of 2 bytes for id 7. -/
def stored : State := { State.reset with storeAvailable := true, store := [(7, some [0x11#8, 0x22#8])] }

/-- A load of 2 bytes to 0x10F0, when neither store call fails (R167): Ok(2), and the second byte lands at 0x10F1. -/
theorem test_load_copies (h0 : Config.storeFails 0 = false) (h1 : Config.storeFails 1 = false) :
    (stored.load 7#8 0x10F0).1 = .okBytes 2 ∧ (stored.load 7#8 0x10F0).2.ram.read 0x10F1 = 0x22#8 := by
  have e : stored.load 7#8 0x10F0 =
      (stored.callStore (.lookup ⟨7#8⟩)).loadCopy ⟨7#8⟩ 0x10F0 2 := by
    have h : stored.storeFails = false := h0
    have hl : stored.lookupResult ⟨7#8⟩ = .present 2 := by unfold State.lookupResult; rw [h]; rfl
    show (match stored.lookupResult ⟨7#8⟩ with
      | .fail => (BlockResult.err .ioError, _) | .absent => (.err .notFound, _) | .present n => _) = _
    rw [hl]; rfl
  have r : (stored.callStore (.lookup ⟨7#8⟩)).readResult ⟨7#8⟩ = some [0x11#8, 0x22#8] := by
    have h : (stored.callStore (.lookup ⟨7#8⟩)).storeFails = false := h1
    unfold State.readResult; rw [h]; rfl
  rw [e]
  unfold State.loadCopy
  rw [r]
  exact ⟨rfl, (Memory.read_write _ _ _ _).trans (by decide)⟩

/-- R241: the codes 0 to 4. -/
theorem test_result_codes :
    [BlockResult.ok, .okBytes 16, .err .addressRange, .err .notFound, .err .ioError, .err .deviceUnavailable].map (·.code) =
      [0, 0, 1, 2, 3, 4] := by decide

/-! ## Expansion port (section 2.7) -/

theorem test_iorExpa_absent_floats :
    (applied { State.reset with expPresent := false } 0x4000F40000).map (·.returned) = some [.byte 0xFF#8] := by decide

theorem test_iorExpa_present_calls_the_chip :
    (applied { State.reset with expPresent := true } 0x4000F40000).map (·.expCalls) = some [.read .a] := by decide

theorem test_iorExpb_present_calls_the_chip :
    (applied { State.reset with expPresent := true } 0x4000F50000).map (·.expCalls) = some [.read .b] := by decide

theorem test_iowExpa_writes_the_latch :
    (applied { State.reset with expPresent := true } 0x5000F40055).map (·.expCalls) = some [.write .a 0x55#8] := by
  decide

theorem test_iowExpb_writes_the_latch :
    (applied { State.reset with expPresent := true } 0x5000F500AA).map (·.expCalls) = some [.write .b 0xAA#8] := by
  decide

theorem test_iowExpctl_0x90 :
    (applied { State.reset with expPresent := true } 0x5000F70090).map (fun t => (t.expDirA, t.expDirB, t.expCalls)) =
      some (.input, .output, [.setDir .a .input, .setDir .b .output]) := by decide

theorem test_iowExpctl_0x82_and_0x10 :
    (applied { State.reset with expPresent := true } 0x5000F70082).map (fun t => (t.expDirA, t.expDirB)) =
      some (.output, .input) ∧
    (applied { State.reset with expPresent := true } 0x5000F70010).map (·.expCalls) = some [] := by decide

/-! ## Unmapped ports (section 2.8) -/

theorem test_iorFloat_0x5A_saves_nothing :
    (applied State.reset 0x40005A0000).map (fun t => (t.returned, t.storeCalls)) = some ([.byte 0xFF#8], []) := by decide

theorem test_iowNop_0xFB :
    (applied State.reset 0x5000FB008A).map (fun t => (t.returned, t.cpuCalls, t.segTrace.length)) =
      some ([], [.reset], 63) := by decide

/-! ## Scheduler and commands (sections 2.9 and 2.10) -/

theorem test_tick_stopped_does_nothing :
    (applied State.reset 0x8000000000).map (fun t => (t.inTick, t.cpuCalls)) = some (false, [.reset]) := by decide

theorem test_tick_running_calls_a_step :
    (applied { running with acc := 1106 } 0x8000000000).map (fun t => (t.inTick, t.acc, t.cpuCalls)) =
      some (true, 0, [.reset, .step]) := by decide

/-- Costs 1000, 50, 60: the third return ends the tick at 1110. -/
theorem test_cpuReturn_ends_the_tick :
    (nextOf (step { ticking 1050 with inputs := [.cpuReturn 60] })).map (fun t => (t.inTick, t.acc, t.cpuCalls)) =
      some (false, 1110, [.reset]) := by decide

theorem test_cpuReturn_below_the_budget :
    (nextOf (step { ticking 1000 with inputs := [.cpuReturn 50] })).map (fun t => (t.inTick, t.acc, t.cpuCalls)) =
      some (true, 1050, [.reset, .step]) := by decide

theorem test_runToggle_both_ways :
    (applied State.reset 0x8300000000).map (·.run) = some .running ∧
    (applied running 0x8300000000).map (·.run) = some .stopped := by decide

theorem test_runStart_from_running : (applied running 0x8400000000).map (·.run) = some .running := by decide

theorem test_runStop_from_stopped : (applied State.reset 0x8500000000).map (·.run) = some .stopped := by decide

theorem test_resetCmd_keeps_running :
    (applied running 0x8600000000).map (fun t => (t.run, t.cpuCalls)) = some (.running, [.reset, .reset]) := by decide

theorem test_intCmd_while_stopped :
    (applied State.reset 0x8700000000).map (fun t => (t.run, t.cpuCalls)) =
      some (.stopped, [.reset, .raiseInterrupt Config.intVector]) := rfl

theorem test_tick_inside_a_tick_is_refused : refusal (ticking 0) 0x8000000000 = some .hostEventInTick := by decide

theorem test_powerOn_first :
    (applied State.reset 0x8800000000).map (fun t => (t.run, t.cpuCalls, t.segTrace.length)) =
      some (.stopped, [.reset], 63) := by decide

theorem test_powerOn_not_first_is_refused :
    refusal { State.reset with started := true } 0x8800000000 = some .powerOnNotFirst := by decide

theorem test_non_transaction_is_refused :
    refusal State.reset 0xF000000000 = some (.notATransaction .unusedClass) := by decide

/-! ## Assembly syntax and pseudo-transactions (R84, R85) -/

theorem test_select_2_is_0xFD : (Pseudo.select 2#4).expand = [.iowCath 0xFD#8] := by decide

theorem test_expcfg_in_out_is_0x90 : (Pseudo.expcfg .input .output).expand = [.iowExpctl 0x90#8] := by decide

theorem test_asmText : asmText (.iowCath 0xFD#8) = "IOW 0xFA, 0xFD" := by decide

/-! ## For every statement with hypotheses, a state and operands that meet them -/

theorem test_meets_DecodeOfEncodeIsTheInstruction :
    (Instr.iorFloat 0xF7#8).wf = true ∧ (Instr.iowNop 0xF6#8 0#8).wf = true ∧ (Instr.keyDown 8#8 0xFF#8).wf = true ∧
    (Instr.keyUp 0#8).wf = true ∧ (Instr.memw16 0xFFFF#16 0xFFFF#16).wf = true := by decide

/-- Each clause at the ends of its range. -/
theorem test_meets_DecodeRejectsExactlyTheNonTransactions :
    decode 0x6000000000#40 = .error .unusedClass ∧ decode 0x7FFFFFFFFF#40 = .error .unusedClass ∧
    decode 0x9000000000#40 = .error .unusedClass ∧ decode 0xFFFFFFFFFF#40 = .error .unusedClass ∧
    decode 0x0100000000#40 = .error .busSubNotZero ∧ decode 0x5F00FA0000#40 = .error .busSubNotZero ∧
    decode 0x8900000000#40 = .error .unusedHostEvent ∧ decode 0x8F00000000#40 = .error .unusedHostEvent := by decide

theorem test_meets_RowsOfOnePriorityNeverOverlap :
    ∃ r ∈ opcodeTable, ∃ q ∈ opcodeTable, r.priority = q.priority ∧ r.mnemonic ≠ q.mnemonic :=
  ⟨memoryRows[0], by simp [opcodeTable, memoryRows], memoryRows[1], by simp [opcodeTable, memoryRows], by decide, by decide⟩

theorem test_meets_EveryPortReachesItsHandler :
    TxWord.sub 0x40FFAD0000#40 = 0#4 ∧ TxWord.cls 0x40FFAD0000#40 = 4#4 ∧
    TxWord.sub 0x5000F7FF00#40 = 0#4 ∧ TxWord.cls 0x5000F7FF00#40 = 5#4 := by decide

theorem test_meets_StepRunsTheDecodedInstruction :
    (State.reset.withFetchWord 40 0x8800000000).inputs = [.word 0x8800000000#40] ∧
    decode 0x8800000000#40 = .ok .powerOn ∧ decode 0x8900000000#40 = .error .unusedHostEvent := by decide

theorem test_meets_StepIdlesWithNothingWaiting : State.reset.inputs = [] := by decide

theorem test_meets_NoFaultAndEveryTransactionCompletes :
    Instr.iowSave 0#8 ∉ [Instr.tick, .runToggle, .runStart, .runStop, .resetCmd, .intCmd, .powerOn] ∧
    (∀ row code, Instr.iowSave 0#8 ≠ .keyDown row code) ∧ ∀ row, Instr.iowSave 0#8 ≠ .keyUp row :=
  ⟨by decide, nofun, nofun⟩

theorem test_meets_RomIsImmutable :
    State.reset.rom = Config.romImage ∧ step State.reset = .next State.reset ∧ (0x0000#16 : Addr).toNat < Config.romSize :=
  ⟨rfl, rfl, Nat.succ_pos _⟩

/-- The least offset outside a ROM of one byte, and the last offset of the window. -/
theorem test_meets_EveryAliasReadsTheWrittenByte :
    let s : State := { State.reset with rom := [0#8] }
    s.rom.length ≤ (0 : Fin 8).val * 0x2000 + 1 ∧ s.rom.length ≤ (7 : Fin 8).val * 0x2000 + 0x1FFF ∧ 0x1FFF < 0x2000 := by
  decide

theorem test_meets_the_key_statements :
    (8#8 : Byte).toNat < 9 ∧ State.reset.inTick = false ∧ 9 ≤ (9#8 : Byte).toNat ∧ (ticking 0).inTick = true := by decide

theorem test_meets_BlankWriteChangesNothing : 0x7F#8 &&& 0x7F#8 = 0x7F#8 ∧ 0xFF#8 &&& 0x7F#8 = 0x7F#8 := by decide

/-- IowSegRefreshesTheSelectedDigit, RepeatedPatternPaintsOnce and FiftyPassesBlankADigitAndFortyNineDoNot: the digits 0 and
8, and a `cathode` of 9 and of 15. -/
theorem test_meets_the_display_statements :
    0x00#8 &&& 0x7F#8 ≠ 0x7F#8 ∧ 0xFE#8 &&& 0x7F#8 ≠ 0x7F#8 ∧ digit0.cathode.toNat = (0 : Fin 9).val ∧
    { State.reset with cathode := 8#4 }.cathode.toNat = (8 : Fin 9).val ∧
    9 ≤ { State.reset with cathode := 9#4 }.cathode.toNat ∧ 9 ≤ { State.reset with cathode := 15#4 }.cathode.toNat := by
  decide

/-- A step that repaints a digit, from a state that is consistent and shown as sent. -/
theorem test_meets_the_display_invariants :
    (digit0.withFetchWord 40 0x5000F80040).DisplayConsistent ∧ (digit0.withFetchWord 40 0x5000F80040).RendererAgrees ∧
    ∃ t, step (digit0.withFetchWord 40 0x5000F80040) = .next t := by
  refine ⟨fun d => ?_, ?_, _, rfl⟩
  · have h : (digit0.withFetchWord 40 0x5000F80040).digits[d] = darkDigit := by revert d; decide
    rw [h]
    exact ⟨by decide, by decide, by decide⟩
  · unfold State.RendererAgrees
    decide

/-- IowSaveStoresTheRange and IowSaveOutOfRangeTouchesNothing, at their common bound. -/
theorem test_meets_the_save_statements :
    ((cells 0xF0#8 0x1F#8 7#8).ram.read 0x1FF9).toNat < 0x20 ∧
    0x20 ≤ ((cells 0x00#8 0x20#8 7#8).ram.read 0x1FF9).toNat := by decide

theorem test_meets_SaveThenLoadRestoresTheBytes :
    0x1FF0 + 16 ≤ 8192 ∧ (State.reset.save 1#8 0x1FF0 16).2.store = (State.reset.save 1#8 0x1FF0 16).2.store ∧
    blockStart 0#8 0x10#8 = 0x1000 := ⟨by decide, rfl, by decide⟩

theorem test_meets_SaveOverTheWindowIsARangeError : 8192 < 0x1FF0 + 17 := by decide

theorem test_meets_LoadOfAnAbsentObjectIsNotFound :
    Store.get [(9, none)] (Config.blockName 9#8) = none := by decide

theorem test_meets_UnavailableStoreGoesToTheErrorVector :
    { State.reset with storeAvailable := false }.storeAvailable = false := by decide

theorem test_meets_the_expander_statements :
    { State.reset with expPresent := false }.expPresent = false ∧
    { State.reset with expPresent := true }.expPresent = true ∧
    (0x7F#8 : Byte).getLsbD 7 = false ∧ (0x80#8 : Byte).getLsbD 7 = true := by decide

theorem test_meets_the_run_statements :
    State.reset.inTick = false ∧ State.reset.run = .stopped ∧ running.inTick = false ∧ running.run = .running := by decide

/-- The three clauses: one cycle below the budget, at it, and outside a tick. -/
theorem test_meets_CpuReturnTestsTheBudget :
    let s : State := { ticking 1099 with inputs := [.cpuReturn 0] }
    let u : State := { ticking 1099 with inputs := [.cpuReturn 1] }
    s.inTick = true ∧ s.acc + 0 < 1100 ∧ u.inTick = true ∧ 1100 ≤ u.acc + 1 ∧
    ({ State.reset with inputs := [.cpuReturn 1] } : State).inTick = false := by decide

/-- A fetch at 0x0000, and the selection of cathode 0. -/
theorem test_isTransactionWord :
    isTransactionWord 0x0000000000#40 = true ∧ isTransactionWord 0x5000FA00FF#40 = true ∧
    isTransactionWord 0x8000000000#40 = false ∧ isTransactionWord 0xF000000000#40 = false := by decide

/-- Cost 1099, two steps: the first fetches and selects a cathode, the second fetches; and cost 1100, one step without
transactions. -/
theorem test_meets_ConstantCostTickRunsTheCeilingOfTheBudget :
    let steps : List (List TxWord) := [[0x0000000000#40, 0x5000FA00FF#40], [0x0000000000#40]]
    let s : State := { running with inputs := .word 0x8000000000#40 :: (stepsInputs 1099 steps ++ []) }
    s.inTick = false ∧ s.run = .running ∧ steps.length = (1100 + 1099 - 1) / 1099 ∧
    (∀ ws ∈ steps, ∀ w ∈ ws, isTransactionWord w = true) ∧ s.inputs.length = 6 ∧
    ([[]] : List (List TxWord)).length = (1100 + 1100 - 1) / 1100 ∧ ([[]] : List (List TxWord)).flatten = [] := by
  obtain ⟨h0, h1, _⟩ := test_isTransactionWord
  exact ⟨rfl, rfl, rfl, by simp [h0, h1], rfl, rfl, rfl⟩

/-- One step that fetches, and one without transactions. -/
theorem test_meets_ZeroCostTickNeverEnds :
    let steps : List (List TxWord) := [[0x0000000000#40], []]
    let s : State := { ticking 1099 with inputs := stepsInputs 0 steps ++ [] }
    s.inTick = true ∧ s.acc < 1100 ∧ (∀ ws ∈ steps, ∀ w ∈ ws, isTransactionWord w = true) ∧ s.inputs.length = 3 ∧
    ([[], []] : List (List TxWord)).flatten = [] := by
  obtain ⟨h0, _⟩ := test_isTransactionWord
  exact ⟨rfl, by decide, by simp [h0], rfl, rfl⟩

theorem test_meets_HostEventsAreRefusedInsideATick :
    (ticking 0).inTick = true ∧
    Instr.intCmd ∈ [Instr.tick, .runToggle, .runStart, .runStop, .resetCmd, .intCmd] := by decide

/-- Each run command, from a state in which it changes the run state. -/
theorem test_meets_OnlyRunCommandsChangeTheRunState :
    (applied { State.reset with started := true } 0x8300000000).map (·.run) = some .running ∧
    (applied { State.reset with started := true } 0x8400000000).map (·.run) = some .running ∧
    (applied { running with started := true } 0x8500000000).map (·.run) = some .stopped := by decide

/-- Each clause: `cathode`, a key row, a direction, the digits, the events sent, the tick and the run state change. -/
theorem test_meets_EachPieceOfStateHasItsOwnWriters :
    (applied { digit0 with started := true } 0x5000FA00FE).map (·.cathode != 0#4) = some true ∧
    (applied { State.reset with started := true } 0x810000005F).map (·.keyRow != State.reset.keyRow) = some true ∧
    (applied { State.reset with started := true, expPresent := true } 0x5000F70080).map (·.expDirA) = some .output ∧
    (applied { digit0 with started := true } 0x5000F80040).map
      (fun t => (t.digits != digit0.digits, t.segTrace != digit0.segTrace)) = some (true, true) ∧
    (applied { running with started := true } 0x8000000000).map (·.inTick) = some true ∧
    (applied { running with started := true } 0x8300000000).map (·.run) = some .stopped ∧
    (nextOf (step { ticking 1099 with started := true, digits := (lit 0x40#7 1).digits, inputs := [.cpuReturn 1] })).map
      (fun t => digit0Of t) = some (0, 0x7F#7) := by decide

/-- Its clauses on the memories: two entries at one key become at most one, so RAM and the store change. -/
theorem test_meets_EachPieceOfStateHasItsOwnWriters_memories :
    (∃ t, step ({ State.reset with started := true, ram := [(0, 1#8), (0, 2#8)] }.withFetchWord 40 0x1000000003) = .next t ∧
      t.ram ≠ [(0, 1#8), (0, 2#8)]) ∧
    (∃ t, step ({ cells 0xFF#8 0x00#8 7#8 with started := true, store := [(7, none), (7, none)] }.withFetchWord
      40 0x50005A0000) = .next t ∧ t.store ≠ [(7, none), (7, none)]) := by
  have short : ∀ (c : Prop) [Decidable c] (n : Nat) (x : Nat × Byte), (if c then [] else [x]) ≠ [(n, 1#8), (n, 2#8)] := by
    intro c _ n x; split <;> simp
  have short' : ∀ (c : Prop) [Decidable c] (x : Nat × Option (List Byte)), (if c then [] else [x]) ≠ [(7, none), (7, none)] := by
    intro c _ x; split <;> simp
  exact ⟨⟨_, rfl, short _ 0 _⟩, ⟨_, rfl, short' _ _⟩⟩

theorem test_meets_the_power_on_statements :
    State.reset.started = false ∧ { State.reset with started := true }.started = true ∧
    (State.reset.withFetchWord 40 0x8000000000).inputs ≠ [] ∧
    (applied State.reset 0x8000000000).map (·.started) = some true := by decide

/-- A MEMR waiting at reset meets the invariant, and its step completes. -/
theorem test_meets_StepKeepsTheInvariant :
    (State.reset.withFetchWord 40 0x0000000000).Inv ∧ ∃ t, step (State.reset.withFetchWord 40 0x0000000000) = .next t := by
  refine ⟨⟨⟨by decide, by decide⟩, ⟨rfl, rfl, rfl⟩, fun d => ?_, ?_, nofun, fun _ => ⟨rfl, rfl, rfl⟩⟩, _, rfl⟩
  · have h : (State.reset.withFetchWord 40 0x0000000000).digits[d] = darkDigit := by revert d; decide
    rw [h]
    exact ⟨by decide, by decide, by decide⟩
  · unfold State.RendererAgrees
    decide

end Sys2Proof.Tests
end

namespace Sys2Proof.Proofs

open Sys2Proof.Machine

/-! ## The step -/

/-- The step's equation at an empty queue (00_scope.md R9; log 2). -/
@[simp] theorem step_of_inputs_nil {s : State} (h : s.inputs = []) : step s = .next s := by
  unfold step
  split
  case h_1 => rfl
  case h_2 w rest hword => simp [h] at hword
  case h_3 cost rest hreturn => simp [h] at hreturn

/-- Settles O7: the empty queue is a branch of the step of its own. -/
theorem stepIdlesWithNothingWaiting : Obligations.StepIdlesWithNothingWaiting :=
  fun _ hidle => step_of_inputs_nil hidle

end Sys2Proof.Proofs

namespace Sys2Proof.Proofs

open Sys2Proof.Machine

/-! ## The display file (10_state.md R26 to R28) -/

/-- The digits and the events sent are those of `s`: what the display's two invariants speak of. -/
def SameDisplay (s t : State) : Prop := t.digits = s.digits ∧ t.segTrace = s.segTrace

/-- Of the instructions only IOW_SEG (R140) and the first POWER_ON (R270) write the display. -/
theorem exec_display_cases {i : Instr} {s t : State} (h : exec i s = .next t) :
    SameDisplay s t ∨
    (∃ v d p, i = .iowSeg v ∧ p ≠ Config.blank ∧ t = s.refreshDigit d p) ∨
    (i = .powerOn ∧ s.started = false ∧ SameDisplay State.reset t) := by
  cases exec_effect i s t h with
  | refresh v d p hp => exact .inr (.inl ⟨v, d, p, rfl, hp, rfl⟩)
  | power hs => exact .inr (.inr ⟨rfl, hs, by rw [State.powerOn_eq]; exact ⟨rfl, rfl⟩⟩)
  | _ => exact .inl ⟨rfl, rfl⟩

/-- A step leaves the display, refreshes a digit (R140), ages all nine (R141), or sets it to its power-on value (R270). -/
theorem step_display_cases {s t : State} (h : step s = .next t) :
    SameDisplay s t ∨
    (∃ d p, p ≠ Config.blank ∧ SameDisplay (s.refreshDigit d p) t) ∨
    SameDisplay s.agePass t ∨
    SameDisplay State.reset t := by
  obtain ⟨_, rfl⟩ | ⟨w, rest, i, u, _, _, hexec, rfl⟩ | ⟨cost, rest, _, _, rfl⟩ := step_next_cases s t h
  · exact .inl ⟨rfl, rfl⟩
  · obtain ⟨hdigits, htrace⟩ | ⟨v, d, p, _, hp, rfl⟩ | ⟨_, _, hdigits, htrace⟩ := exec_display_cases hexec
    · exact .inl ⟨hdigits, htrace⟩
    · exact .inr (.inl ⟨d, p, hp, by rw [State.refreshDigit_eq, State.refreshDigit_eq]; exact ⟨rfl, rfl⟩⟩)
    · exact .inr (.inr (.inr ⟨hdigits, htrace⟩))
  · obtain ⟨_, hreturned⟩ | ⟨_, hreturned⟩ := s.popInput.stepReturned_cases cost <;> rw [hreturned]
    · exact .inl ⟨rfl, rfl⟩
    · exact .inr (.inr (.inl (by rw [State.agePass_eq, State.agePass_eq]; exact ⟨rfl, rfl⟩)))

/-- The aging pass keeps what the aging of each digit keeps (R141). -/
theorem agePass_keeps {P : State → Prop} (hage : ∀ s d, P s → P (s.ageDigit d)) {s : State} (hs : P s) :
    P s.agePass :=
  List.foldlRecOn allDigits State.ageDigit hs fun s hs d _ => hage s d hs

/-- The induction step of the display's invariants: a property of the display that holds after power-on, and that a refresh
and the aging of a digit keep, is kept by every step. -/
theorem step_keeps_of_display {P : State → Prop} (hsame : ∀ s t, SameDisplay s t → P s → P t)
    (hreset : P State.reset) (hrefresh : ∀ s d p, p ≠ Config.blank → P s → P (s.refreshDigit d p))
    (hage : ∀ s d, P s → P (s.ageDigit d)) {s t : State} (hs : P s) (h : step s = .next t) : P t := by
  obtain hst | ⟨d, p, hp, hst⟩ | hst | hst := step_display_cases h
  · exact hsame _ _ hst hs
  · exact hsame _ _ hst (hrefresh s d p hp hs)
  · exact hsame _ _ hst (agePass_keeps hage hs)
  · exact hsame _ _ hst hreset

/-! ## The digits are consistent (R26, R27) -/

theorem darkDigit_consistent : darkDigit.Consistent := ⟨by decide, by decide, by decide⟩

/-- A refresh with the pattern last seen leaves `segs`, so `segs` must have followed that pattern before. -/
theorem refreshed_consistent {g : Digit} (hg : g.Consistent) {p : BitVec 7} (hp : p ≠ Config.blank) :
    (g.refreshed p).Consistent where
  segs_eq k := by
    by_cases h : p = g.lastSeen
    · simpa [Digit.refreshed, h] using hg.segs_eq k
    · simp [Digit.refreshed, h]
  blank_iff := by simpa [Digit.refreshed] using hp
  decay_le := Nat.le_refl 50

theorem aged_consistent {g : Digit} (hg : g.Consistent) : g.aged.Consistent := by
  unfold Digit.aged
  split
  case isTrue => exact hg
  case isFalse hlit =>
    split
    case isTrue => exact darkDigit_consistent
    case isFalse hlast =>
      have hdecay := hg.decay_le
      have hblank := hg.blank_iff
      refine ⟨hg.segs_eq, ?_, ?_⟩
      · simp only [← hblank]; omega
      · simp only; omega

/-- Replacing a digit by a consistent one keeps the display consistent. -/
theorem displayConsistent_of_set {s t : State} (hs : s.DisplayConsistent) {d : Fin 9} {g : Digit} (hg : g.Consistent)
    (ht : t.digits = s.digits.set d g) : t.DisplayConsistent := by
  intro j
  rw [ht, Fin.getElem_fin, Vector.getElem_set]
  split
  · exact hg
  · exact hs j

theorem reset_displayConsistent : State.reset.DisplayConsistent := by
  intro d
  have hdark : State.reset.digits[d] = darkDigit := by simp [State.reset]
  rw [hdark]
  exact darkDigit_consistent

/-- Settles O28: each operation on a digit keeps that digit consistent. -/
theorem stepKeepsTheDisplayConsistent : Obligations.StepKeepsTheDisplayConsistent := by
  intro s t hs h
  refine step_keeps_of_display ?_ reset_displayConsistent ?_ ?_ hs h
  · intro s t ⟨hdigits, _⟩ hs d
    rw [hdigits]
    exact hs d
  · intro s d p hp hs
    exact displayConsistent_of_set hs (refreshed_consistent (hs d) hp) (by rw [State.refreshDigit_eq])
  · intro s d hs
    exact displayConsistent_of_set hs (aged_consistent (hs d)) (by rw [State.ageDigit_eq])

/-! ## The renderer agrees (R26, R28) -/

/-- What digit `d` sends while it goes from `g` to `g'` keeps a renderer right: it paints what it then shows, or sends nothing
and shows what it did. -/
def Repainted (d : Fin 9) (g g' : Digit) (es : List SegEvent) : Prop :=
  (∃ p, g'.segs = segsOf p ∧ es = paintEvents d p) ∨ (g'.segs = g.segs ∧ es = [])

/-- `Digit.refreshed` and its events, as State.refreshDigit_eq gives them (R140). -/
theorem refreshed_repainted (d : Fin 9) (g : Digit) (p : BitVec 7) :
    Repainted d g (g.refreshed p) (if p ≠ g.lastSeen then paintEvents d p else []) := by
  by_cases hp : p = g.lastSeen
  · exact .inr (by simp [Digit.refreshed, hp])
  · exact .inl ⟨p, by simp [Digit.refreshed, hp]⟩

theorem aged_repainted (d : Fin 9) (g : Digit) : Repainted d g g.aged (g.agingEvents d) := by
  by_cases hlast : g.decay = 1
  · exact .inl ⟨Config.blank, by simp [Digit.aged, Digit.agingEvents, hlast, darkDigit, segsOf_blank]⟩
  · refine .inr ⟨?_, by simp [Digit.agingEvents, hlast]⟩
    unfold Digit.aged
    split <;> rfl

/-- A repaint of one digit keeps the renderer in agreement. -/
theorem rendererAgrees_of_repainted {s t : State} (hs : s.RendererAgrees) {d : Fin 9} {g : Digit} {es : List SegEvent}
    (hg : Repainted d s.digits[d] g es) (hdigits : t.digits = s.digits.set d g)
    (htrace : t.segTrace = s.segTrace ++ es) : t.RendererAgrees := by
  intro j k
  have hold := hs j k
  by_cases hj : j = d
  · subst hj
    obtain ⟨p, hsegs, rfl⟩ | ⟨hsegs, rfl⟩ := hg
    · simp [hdigits, htrace, hsegs, shown_append_paintEvents, segLit]
    · rw [List.append_nil] at htrace
      rw [htrace, ← hold, ← hsegs, hdigits]
      simp
  · have hother : t.digits[j] = s.digits[j] := by
      simp [hdigits, Fin.val_inj, Ne.symm hj]
    rw [hother, hold, htrace]
    obtain ⟨p, _, rfl⟩ | ⟨_, rfl⟩ := hg
    · rw [shown_append_paintEvents, if_neg hj]
    · rw [List.append_nil]

theorem reset_rendererAgrees : State.reset.RendererAgrees := by
  unfold State.RendererAgrees
  decide

/-- Settles O29: a digit changes its `segs` only where it sends the events of the same pattern. -/
theorem stepKeepsTheRendererInAgreement : Obligations.StepKeepsTheRendererInAgreement := by
  intro s t hs h
  refine step_keeps_of_display ?_ reset_rendererAgrees ?_ ?_ hs h
  · intro s t ⟨hdigits, htrace⟩ hs d k
    rw [hdigits, htrace]
    exact hs d k
  · intro s d p _ hs
    exact rendererAgrees_of_repainted hs (refreshed_repainted d _ p)
      (by rw [State.refreshDigit_eq]) (by rw [State.refreshDigit_eq])
  · intro s d hs
    exact rendererAgrees_of_repainted hs (aged_repainted d _)
      (by rw [State.ageDigit_eq]) (by rw [State.ageDigit_eq])

/-! ## The writers of each piece of state (R22 to R34) -/

/-- What an instruction may have written between `s` and `t`, once the run has begun. A field whose premise is that something
changed is met at once by a `t` that shows it unchanged. -/
structure OwnWriters (s : State) (i : Instr) (t : State) : Prop where
  rom : t.rom = s.rom := by rfl
  expPresent : t.expPresent = s.expPresent := by rfl
  storeAvailable : t.storeAvailable = s.storeAvailable := by rfl
  cathode : t.cathode ≠ s.cathode → ∃ v, i = .iowCath v := by exact fun h => absurd rfl h
  keyRow : t.keyRow ≠ s.keyRow → ∃ r c, i = .keyDown r c ∨ i = .keyUp r := by
    exact fun h => absurd rfl h
  directions : t.expDirA ≠ s.expDirA ∨ t.expDirB ≠ s.expDirB → ∃ v, i = .iowExpctl v := by
    exact fun h => absurd ⟨rfl, rfl⟩ (not_and_or.mpr h)
  store : t.store ≠ s.store → ∃ v, i = .iowSave v := by exact fun h => absurd rfl h
  ram : t.ram ≠ s.ram → ∃ a v x, i = .memw a v ∨ i = .memw16 a x ∨ i = .iowLoad v := by
    exact fun h => absurd rfl h
  display : t.digits ≠ s.digits ∨ t.segTrace ≠ s.segTrace → ∃ v, i = .iowSeg v := by
    exact fun h => absurd ⟨rfl, rfl⟩ (not_and_or.mpr h)
  clock : t.inTick ≠ s.inTick ∨ t.acc ≠ s.acc → i = .tick := by
    exact fun h => absurd ⟨rfl, rfl⟩ (not_and_or.mpr h)
  run : t.run ≠ s.run → i = .runToggle ∨ i = .runStart ∨ i = .runStop := by exact fun h => absurd rfl h

/-- Once the run has begun, an instruction writes no piece of state that is not its own: one case per kind of effect. -/
theorem exec_ownWriters {i : Instr} {s t : State} (hstarted : s.started = true) (h : exec i s = .next t) :
    OwnWriters s i t := by
  cases exec_effect i s t h with
  | memory _ m hi =>
    refine { ram := fun _ => ?_ }
    obtain ⟨a, v, rfl⟩ | ⟨a, x, rfl⟩ := hi
    · exact ⟨a, v, 0, .inl rfl⟩
    · exact ⟨a, 0, x, .inr (.inl rfl)⟩
  | strobe v => exact { cathode := fun _ => ⟨v, rfl⟩ }
  | refresh v => rw [State.refreshDigit_eq]; exact { display := fun _ => ⟨v, rfl⟩ }
  | save v => exact { store := fun _ => ⟨v, rfl⟩ }
  | load v => exact { ram := fun _ => ⟨0, v, 0, .inr (.inr rfl)⟩ }
  | directions v => exact { directions := fun _ => ⟨v, rfl⟩ }
  | keyRow _ row code hi =>
    refine { keyRow := fun _ => ?_ }
    obtain ⟨r, c, rfl⟩ | ⟨r, rfl⟩ := hi
    · exact ⟨r, c, .inl rfl⟩
    · exact ⟨r, 0, .inr rfl⟩
  | tickBegins => exact { clock := fun _ => rfl }
  | runState _ r _ hi => exact { run := fun _ => hi.imp_right (Or.imp And.left And.left) }
  | power hs => simp [hstarted] at hs
  | nothing | returns | expander | cpuCall => exact {}

/-- Settles O54: an instruction writes what `OwnWriters` says; a CPU-step return writes `acc`, and at the budget also
`in_tick` and the display (R214, R215). -/
theorem eachPieceOfStateHasItsOwnWriters : Obligations.EachPieceOfStateHasItsOwnWriters := by
  intro s t hstarted h
  obtain ⟨_, rfl⟩ | ⟨w, rest, i, u, hnext, hdecode, hexec, rfl⟩ | ⟨cost, rest, hnext, htick, rfl⟩ :=
    step_next_cases s t h
  case inl => simp
  case inr.inl =>
    have hw : OwnWriters s.popInput i u := exec_ownWriters hstarted hexec
    refine ⟨hw.rom, hw.expPresent, hw.storeAvailable, fun hne => ?_, fun hne => ?_, fun hne => ?_, fun hne => ?_,
      fun hne => ?_, fun hne => ?_, fun hne => ?_, fun hne => ?_⟩
    · obtain ⟨v, rfl⟩ := hw.cathode hne
      exact ⟨w, rest, v, hnext, hdecode⟩
    · obtain ⟨r, c, hi⟩ := hw.keyRow hne
      exact ⟨w, rest, r, c, hnext, by simpa [hdecode] using hi⟩
    · obtain ⟨v, rfl⟩ := hw.directions hne
      exact ⟨w, rest, v, hnext, hdecode⟩
    · obtain ⟨v, rfl⟩ := hw.store hne
      exact ⟨w, rest, v, hnext, hdecode⟩
    · obtain ⟨a, v, x, hi⟩ := hw.ram hne
      exact ⟨w, rest, a, v, x, hnext, by simpa [hdecode] using hi⟩
    · obtain ⟨v, rfl⟩ := hw.display hne
      exact .inl ⟨w, rest, v, hnext, hdecode⟩
    · obtain rfl := hw.clock hne
      exact .inl ⟨w, rest, hnext, hdecode⟩
    · exact ⟨w, rest, hnext, by simpa [hdecode] using hw.run hne⟩
  case inr.inr =>
    obtain ⟨_, hreturned⟩ | ⟨hbudget, hreturned⟩ := s.popInput.stepReturned_cases cost <;> rw [hreturned]
    · simp [hnext, htick]
    · have hbudget : 1100 ≤ s.acc + cost := hbudget
      simp [State.agePass_eq, hnext, htick, hbudget]

end Sys2Proof.Proofs

namespace Sys2Proof.Proofs

open Sys2Proof.Machine

/-! ## The aliases of a RAM byte (20_memory.md R51, R52) -/

/-- The alias of offset `o` in window `j` is an address: eight windows of 0x2000 bytes fill the 16-bit space, so none wraps. -/
theorem toNat_alias (j : Fin 8) {o : Nat} (ho : o < 0x2000) :
    (BitVec.ofNat 16 (j.val * 0x2000 + o)).toNat = j.val * 0x2000 + o := by
  rw [BitVec.toNat_ofNat, Nat.mod_eq_of_lt (by omega)]

/-- The mask takes every alias of an offset to that offset (R51). -/
theorem toNat_alias_mod (j : Fin 8) {o : Nat} (ho : o < 0x2000) :
    (BitVec.ofNat 16 (j.val * 0x2000 + o)).toNat % 8192 = o := by
  rw [toNat_alias j ho]
  omega

theorem exec_memw (a : Addr) (v : Byte) (s : State) : exec (.memw a v) s = .next (s.writeByte a v) := rfl

/-- Settles O15: the two aliases have one RAM offset, and the one read is not in ROM. -/
theorem everyAliasReadsTheWrittenByte : Obligations.EveryAliasReadsTheWrittenByte := by
  intro s o j k v ho hrom
  refine ⟨_, exec_memw _ v s, ?_⟩
  have hram : ¬ (BitVec.ofNat 16 (k.val * 0x2000 + o)).toNat < s.rom.length := by
    rw [toNat_alias k ho]
    exact Nat.not_lt.mpr hrom
  rw [State.readByte_writeByte, if_neg hram, toNat_alias_mod k ho, toNat_alias_mod j ho, if_pos rfl]

/-! ## The step on a waiting word (20_memory.md R64) -/

theorem popInput_of_inputs_cons {s : State} {x : Input} {rest : List Input} (h : s.inputs = x :: rest) :
    s.popInput = { s with inputs := rest } := by
  simp [State.popInput, h]

/-- The step's equation at a waiting word. -/
theorem step_of_inputs_word {s : State} {w : TxWord} {rest : List Input} (h : s.inputs = .word w :: rest) :
    step s = afterInput (applyWord w { s with inputs := rest }) := by
  rw [← popInput_of_inputs_cons h]
  simp [step, h]

theorem applyWord_of_decode_ok {w : TxWord} {i : Instr} (h : decode w = .ok i) (s : State) :
    applyWord w s = exec i s := by
  simp [applyWord, h]

theorem applyWord_of_decode_error {w : TxWord} {why : DecodeError} (h : decode w = .error why) (s : State) :
    applyWord w s = .refused (.notATransaction why) := by
  simp [applyWord, h]

/-- Settles O6: the word's decoding decides what `applyWord` answers, and `afterInput` sets `started` on a next state only. -/
theorem stepRunsTheDecodedInstruction : Obligations.StepRunsTheDecodedInstruction := by
  intro s w rest hnext
  constructor
  · intro i hi
    rw [step_of_inputs_word hnext, applyWord_of_decode_ok hi]
    cases exec i { s with inputs := rest } with
    | next t => rfl
    | fault r => rfl
    | refused r => rfl
  · intro why hwhy
    rw [step_of_inputs_word hnext, applyWord_of_decode_error hwhy]
    rfl

/-! ## Host events inside a tick (20_memory.md R65) -/

theorem betweenTicks_of_inTick {s : State} (h : s.inTick = true) (go : State) :
    betweenTicks s go = .refused .hostEventInTick := by
  simp [betweenTicks, h]

/-- The timer, run, reset and interrupt events all begin with `require not in_tick` (R214 to R220). -/
theorem exec_eq_betweenTicks {i : Instr}
    (hi : i ∈ [Instr.tick, .runToggle, .runStart, .runStop, .resetCmd, .intCmd]) (s : State) :
    ∃ go, exec i s = betweenTicks s go := by
  simp only [List.mem_cons, List.not_mem_nil, or_false] at hi
  obtain rfl | rfl | rfl | rfl | rfl | rfl := hi <;> exact ⟨_, rfl⟩

/-- Settles O52: the precondition these events share fails inside a tick. -/
theorem hostEventsAreRefusedInsideATick : Obligations.HostEventsAreRefusedInsideATick := by
  intro s i htick hi
  obtain ⟨go, hexec⟩ := exec_eq_betweenTicks hi s
  rw [hexec, betweenTicks_of_inTick htick]

end Sys2Proof.Proofs

namespace Sys2Proof.Proofs

open Sys2Proof.Machine

/-! ## The words of a row (30_encoding.md R74) -/

theorem covers_iff (r : Row) (w : TxWord) : r.covers w = true ↔ w &&& r.mask = r.pat := by
  simp [Row.covers]

/-- A word of two rows has both patterns, so they agree on the bits that both masks compare. -/
theorem pat_and_mask_eq_of_covers {r q : Row} {w : TxWord} (hr : r.covers w = true) (hq : q.covers w = true) :
    r.pat &&& q.mask = q.pat &&& r.mask := by
  rw [covers_iff] at hr hq
  rw [← hr, ← hq, BitVec.and_assoc, BitVec.and_assoc, BitVec.and_comm r.mask]

/-- Two rows that have one priority differ on a bit that both masks compare. -/
def PriorityDisjoint (r q : Row) : Prop := r.priority = q.priority → r.pat &&& q.mask ≠ q.pat &&& r.mask

theorem priorityDisjoint_symm : Std.Symm PriorityDisjoint :=
  ⟨fun _ _ h hpriority => (h hpriority.symm).symm⟩

theorem opcodeTable_priorityDisjoint : opcodeTable.Pairwise PriorityDisjoint := by
  unfold PriorityDisjoint
  decide

/-- Settles O3: in the table, rows of one priority have patterns that no word can have both of. -/
theorem rowsOfOnePriorityNeverOverlap : Obligations.RowsOfOnePriorityNeverOverlap := by
  intro r hr q hq hpriority hmnemonic w ⟨hrw, hqw⟩
  have hne : r ≠ q := fun h => hmnemonic (congrArg Row.mnemonic h)
  have := priorityDisjoint_symm
  have hdisjoint : PriorityDisjoint r q := opcodeTable_priorityDisjoint.forall hr hq hne
  exact hdisjoint hpriority (pat_and_mask_eq_of_covers hrw hqw)

/-! ## The words that are no transaction (30_encoding.md R75) -/

/-- The class and `sub` of a transaction: a bus class with `sub` 0, or a host event 0..8 (R70, R72). -/
def IsHeader (c s : BitVec 4) : Prop := (c.toNat ≤ 5 ∧ s = 0#4) ∨ (c.toNat = 8 ∧ s.toNat ≤ 8)

/-- Every row compares at least the class and `sub`, with those of a transaction. -/
theorem opcodeTable_headers :
    ∀ r ∈ opcodeTable, r.mask &&& maskClass = maskClass ∧ IsHeader r.pat.cls r.pat.sub := by
  unfold IsHeader
  decide

/-- Every transaction's class and `sub` have a row that compares nothing else: for IOR and IOW the catch-all row. -/
theorem exists_classRow :
    ∀ c s : BitVec 4, IsHeader c s → ∃ r ∈ opcodeTable, r.mask = maskClass ∧ r.pat = (c ++ s) ++ 0#32 := by
  unfold IsHeader
  decide

theorem header_eq_of_covers {r : Row} {w : TxWord} (hmask : r.mask &&& maskClass = maskClass)
    (h : r.covers w = true) : w.cls = r.pat.cls ∧ w.sub = r.pat.sub := by
  have hpat : r.pat &&& maskClass = w &&& maskClass := by
    rw [← (covers_iff r w).mp h, BitVec.and_assoc, hmask]
  refine (w.and_maskClass_eq_iff _ _ _ rfl).mp ?_
  rw [← hpat]
  exact (r.pat.and_maskClass_eq_iff _ _ _ rfl).mpr ⟨rfl, rfl⟩

/-- Which words some row claims: the port plays no part, since the catch-all rows claim every port. -/
theorem exists_covers_iff (w : TxWord) : (∃ r ∈ opcodeTable, r.covers w = true) ↔ IsHeader w.cls w.sub := by
  constructor
  · rintro ⟨r, hr, hcovers⟩
    obtain ⟨hmask, hheader⟩ := opcodeTable_headers r hr
    obtain ⟨hcls, hsub⟩ := header_eq_of_covers hmask hcovers
    rwa [hcls, hsub]
  · intro h
    obtain ⟨r, hr, hmask, hpat⟩ := exists_classRow _ _ h
    refine ⟨r, hr, (covers_iff r w).mpr ?_⟩
    rw [hmask]
    exact (w.and_maskClass_eq_iff _ _ _ hpat).mpr ⟨rfl, rfl⟩

theorem opcodeTable_priority : ∀ r ∈ opcodeTable, r.priority = 1 ∨ r.priority = 0 := by decide

theorem findRow_eq_none_iff (n : Nat) (w : TxWord) :
    findRow n w = none ↔ ∀ r ∈ opcodeTable, r.priority = n → ¬ r.covers w = true := by
  simp [findRow]

/-- The two passes of the decoder miss a word exactly when no row claims it. -/
theorem findRow_or_eq_none_iff (w : TxWord) :
    (findRow 1 w).or (findRow 0 w) = none ↔ ¬ IsHeader w.cls w.sub := by
  rw [Option.or_eq_none_iff, findRow_eq_none_iff, findRow_eq_none_iff, ← exists_covers_iff]
  constructor
  · rintro ⟨hone, hzero⟩ ⟨r, hr, hcovers⟩
    obtain hpriority | hpriority := opcodeTable_priority r hr
    · exact hone r hr hpriority hcovers
    · exact hzero r hr hpriority hcovers
  · intro hnone
    exact ⟨fun r hr _ hcovers => hnone ⟨r, hr, hcovers⟩, fun r hr _ hcovers => hnone ⟨r, hr, hcovers⟩⟩

theorem decode_eq_error_iff (w : TxWord) (why : DecodeError) :
    decode w = .error why ↔ ¬ IsHeader w.cls w.sub ∧ rejectReason w = why := by
  rw [← findRow_or_eq_none_iff]
  unfold decode
  cases (findRow 1 w).or (findRow 0 w) <;> simp

/-- The three reasons follow the three kinds of class: bus, host and unused. -/
theorem rejectReason_cases (w : TxWord) :
    (w.cls.toNat ≤ 5 ∧ rejectReason w = .busSubNotZero) ∨
    (w.cls.toNat = 8 ∧ rejectReason w = .unusedHostEvent) ∨
    ((w.cls.toNat = 6 ∨ w.cls.toNat = 7 ∨ 9 ≤ w.cls.toNat) ∧ rejectReason w = .unusedClass) := by
  have hhost : w.cls = 8#4 ↔ w.cls.toNat = 8 := BitVec.toNat_inj.symm
  unfold rejectReason
  split
  case isTrue hbus => exact .inl ⟨by omega, rfl⟩
  case isFalse hbus =>
    split
    case isTrue h => exact .inr (.inl ⟨hhost.mp h, rfl⟩)
    case isFalse h =>
      rw [hhost] at h
      exact .inr (.inr ⟨by omega, rfl⟩)

/-- Settles O2: the kind of class fixes the one reason there can be, and within the kind `sub` decides whether the word has a
row. -/
theorem decodeRejectsExactlyTheNonTransactions : Obligations.DecodeRejectsExactlyTheNonTransactions := by
  intro w
  simp only [decode_eq_error_iff, IsHeader]
  obtain ⟨hbus, hreason⟩ | ⟨hhost, hreason⟩ | ⟨hunused, hreason⟩ := rejectReason_cases w <;>
    simp only [hreason, reduceCtorEq, and_false, and_true, false_iff]
  · refine ⟨by omega, ?_, by omega⟩
    have hhost : w.cls.toNat ≠ 8 := by omega
    simp [hbus, hhost]
  · refine ⟨by omega, by omega, ?_⟩
    have hsub : ¬ w.sub.toNat ≤ 8 ↔ 9 ≤ w.sub.toNat := by omega
    simpa [hhost] using hsub
  · refine ⟨?_, by omega, by omega⟩
    have hbus : ¬ w.cls.toNat ≤ 5 := by omega
    have hhost : w.cls.toNat ≠ 8 := by omega
    simp [hunused, hbus, hhost]

/-! ## The block parameters (30_encoding.md R80) -/

theorem blockLength_eq_sub (lo : Byte) : blockLength lo = 256 - lo.toNat := by
  have hlo : lo.toNat < 256 := lo.isLt
  simp only [blockLength, BitVec.toNat_not]
  omega

/-- The start as the spec writes it, `(hi << 8) | lo`. -/
theorem blockStart_eq_shift_or (lo hi : Byte) :
    blockStart lo hi = (hi.setWidth 16 <<< 8 ||| lo.setWidth 16 : BitVec 16).toNat := by
  have hlo : lo.toNat < 2 ^ 8 := lo.isLt
  have hhi : hi.toNat < 2 ^ 8 := hi.isLt
  have hshift : (hi.setWidth 16 <<< 8 : BitVec 16).toNat = hi.toNat <<< 8 := by
    simp only [BitVec.toNat_shiftLeft, BitVec.toNat_setWidth, Nat.shiftLeft_eq]
    omega
  have hwidth : (lo.setWidth 16).toNat = lo.toNat := by
    simp only [BitVec.toNat_setWidth]
    omega
  rw [BitVec.toNat_or, hshift, hwidth, ← Nat.shiftLeft_add_eq_or_of_lt hlo, Nat.shiftLeft_eq]
  rfl

/-- A block ends at the end of its page, because its low byte gives both its start and its length. -/
theorem blockStart_add_blockLength (lo hi : Byte) : blockStart lo hi + blockLength lo = (hi.toNat + 1) * 256 := by
  have hlo : lo.toNat < 256 := lo.isLt
  simp only [blockLength_eq_sub, blockStart]
  omega

/-- Settles O30: the facts about the cells' two functions, at the cells' values. -/
theorem blockParametersComeFromTheCells : Obligations.BlockParametersComeFromTheCells := by
  intro s
  have hlength : s.blockParams.length = 256 - (s.ram.read 0x1FF8).toNat := blockLength_eq_sub _
  have hlo : (s.ram.read 0x1FF8).toNat < 256 := (s.ram.read 0x1FF8).isLt
  exact ⟨rfl, rfl, hlength, by omega, by omega, blockStart_eq_shift_or _ _, blockStart_add_blockLength _ _⟩

end Sys2Proof.Proofs

namespace Sys2Proof.Proofs

open Sys2Proof.Machine

/-! ## The masked address (20_memory.md R51) -/

/-- Two addresses reach one RAM byte exactly when they are equal under the mask. -/
theorem mod_window_eq_iff (a b : Addr) : b.toNat % 8192 = a.toNat % 8192 ↔ b &&& 0x1FFF#16 = a &&& 0x1FFF#16 := by
  rw [← ramOffset_eq_mod, ← ramOffset_eq_mod]
  exact BitVec.toNat_inj

theorem mask_mask (a : Addr) : a &&& 0x1FFF#16 &&& 0x1FFF#16 = a &&& 0x1FFF#16 := by
  rw [BitVec.and_assoc, BitVec.and_self]

/-! ## The reads MEMR and MEMR16 (40_memory_map.md R100, R102) -/

theorem exec_memr (a : Addr) (s : State) : exec (.memr a) s = .next (s.returnByte (s.readByte a)) := rfl

theorem exec_memr16 (a : Addr) (s : State) : exec (.memr16 a) s = .next (s.returnWord (s.readWord a)) := rfl

theorem readByte_eq_dite (s : State) (a : Addr) :
    s.readByte a = if h : a.toNat < s.rom.length then s.rom[a.toNat] else s.ram.read (a &&& 0x1FFF#16).toNat := rfl

theorem sameBytes_returnByte (s : State) (v : Byte) : SameBytes s (s.returnByte v) :=
  State.readByte_congr s _ (State.returnByte_rom s v) (State.returnByte_ram s v)

theorem sameBytes_returnWord (s : State) (w : Word) : SameBytes s (s.returnWord w) :=
  State.readByte_congr s _ (State.returnWord_rom s w) (State.returnWord_ram s w)

/-- Settles O9: the byte returned is the memory map's read, and a return writes no memory. -/
theorem memrReadsRomBelowItsSizeElseRam : Obligations.MemrReadsRomBelowItsSizeElseRam := by
  intro a s
  refine ⟨_, exec_memr a s, ?_, sameBytes_returnByte s _⟩
  rw [State.returnByte, readByte_eq_dite]

/-- Settles O11: the word returned is the bytes at the next address and at this one, and a return writes no memory. -/
theorem memr16ReadsLittleEndian : Obligations.Memr16ReadsLittleEndian := by
  intro a s
  exact ⟨_, exec_memr16 a s, rfl, sameBytes_returnWord s _⟩

/-! ## The writes MEMW and MEMW16 (40_memory_map.md R101, R103, R105) -/

theorem exec_memw16 (a : Addr) (w : Word) (s : State) : exec (.memw16 a w) s = .next (s.writeWord a w) := rfl

/-- `State.readByte_writeByte` with the aliases told by the mask, as R51 tells them. -/
theorem readByte_writeByte_mask (s : State) (a b : Addr) (v : Byte) :
    (s.writeByte a v).readByte b =
      if b.toNat < s.rom.length then s.readByte b
      else if b &&& 0x1FFF#16 = a &&& 0x1FFF#16 then v else s.readByte b := by
  simp only [State.readByte_writeByte, mod_window_eq_iff]

/-- Settles O10: what a RAM read and a memory read give after a byte write. -/
theorem memwWritesTheMaskedRamByte : Obligations.MemwWritesTheMaskedRamByte := by
  intro a v s
  exact ⟨_, exec_memw a v s, rfl, Memory.read_write s.ram _ v, fun b => readByte_writeByte_mask s a b v⟩

theorem lowByte_eq_setWidth (w : Word) : lowByte w = w.setWidth 8 := (BitVec.setWidth_eq_extractLsb' (by decide)).symm

theorem highByte_eq_shift (w : Word) : highByte w = (w >>> 8).setWidth 8 :=
  BitVec.setWidth_ushiftRight_eq_extractLsb.symm

/-- What a RAM read after a word write gives: the high byte, written last, is looked at first. -/
theorem ram_read_writeWord (s : State) (a : Addr) (w : Word) (o : Nat) :
    (s.writeWord a w).ram.read o =
      if o = ramOffset (nextAddr a) then highByte w else if o = ramOffset a then lowByte w else s.ram.read o := by
  rw [State.writeWord_ram, Memory.read_write, Memory.read_write]

/-- What a byte read after a word write gives. -/
theorem readByte_writeWord (s : State) (a b : Addr) (w : Word) :
    (s.writeWord a w).readByte b =
      if b.toNat < s.rom.length then s.readByte b
      else if b &&& 0x1FFF#16 = nextAddr a &&& 0x1FFF#16 then highByte w
      else if b &&& 0x1FFF#16 = a &&& 0x1FFF#16 then lowByte w else s.readByte b := by
  rw [State.writeWord, readByte_writeByte_mask, State.writeByte_rom, readByte_writeByte_mask]
  by_cases hrom : b.toNat < s.rom.length
  · simp only [if_pos hrom]
  · simp only [if_neg hrom]

/-- Settles O12: what a RAM read and a memory read give after a word write. -/
theorem memw16WritesLowThenHighByte : Obligations.Memw16WritesLowThenHighByte := by
  intro a w s
  refine ⟨_, exec_memw16 a w s, rfl, ?_, ?_⟩ <;> rw [← highByte_eq_shift, ← lowByte_eq_setWidth]
  · exact ram_read_writeWord s a w
  · exact fun b => readByte_writeWord s a b w

/-- Settles O14: the masked address is an alias of the address written, so ROM is the only other thing it can read. -/
theorem writeThenReadAtTheMaskedAddress : Obligations.WriteThenReadAtTheMaskedAddress := by
  intro a v s
  refine ⟨_, _, exec_memw a v s, exec_memr _ _, ?_⟩
  rw [State.returnByte_returned, State.writeByte_returned, readByte_writeByte_mask, if_pos (mask_mask a)]
  by_cases hrom : (a &&& 0x1FFF#16).toNat < s.rom.length
  · rw [if_pos hrom, dif_pos hrom, State.readByte_rom s _ hrom]
  · rw [if_neg hrom, dif_neg hrom]

/-! ## ROM (40_memory_map.md R104) -/

/-- The only effect that writes ROM is power-on's, and it writes ROM_IMAGE (R270). -/
theorem exec_keeps_romImage {i : Instr} {s t : State} (hs : s.rom = Config.romImage) (h : exec i s = .next t) :
    t.rom = Config.romImage := by
  cases exec_effect i s t h with
  | refresh => rw [State.refreshDigit_eq]; exact hs
  | power => rw [State.powerOn_eq]; rfl
  | _ => exact hs

theorem stepReturned_rom (s : State) (cost : Nat) : (s.stepReturned cost).rom = s.rom := by
  obtain ⟨_, hreturned⟩ | ⟨_, hreturned⟩ := s.stepReturned_cases cost <;> rw [hreturned]
  rw [State.agePass_eq]

theorem step_keeps_romImage {s t : State} (hs : s.rom = Config.romImage) (h : step s = .next t) :
    t.rom = Config.romImage := by
  obtain ⟨_, rfl⟩ | ⟨w, rest, i, u, _, _, hexec, rfl⟩ | ⟨cost, rest, _, _, rfl⟩ := step_next_cases s t h
  · exact hs
  · rw [State.markStarted_rom]
    exact exec_keeps_romImage (s.popInput_rom.trans hs) hexec
  · rw [State.markStarted_rom, stepReturned_rom]
    exact hs

theorem readByte_of_romImage {s : State} (hs : s.rom = Config.romImage) {a : Addr} (ha : a.toNat < Config.romSize) :
    s.readByte a = Config.romByte a.toNat := by
  have hrom : a.toNat < s.rom.length := by simpa [hs, Config.romImage] using ha
  rw [State.readByte_rom s a hrom]
  simp [hs, Config.romImage]

/-- Settles O13: ROM_IMAGE stands at reset, every step keeps it, and MEMR returns its byte. -/
theorem romIsImmutable : Obligations.RomIsImmutable := by
  refine ⟨rfl, fun s t hs h => ?_⟩
  have ht : t.rom = Config.romImage := step_keeps_romImage hs h
  refine ⟨ht, fun a ha => ?_⟩
  rw [exec_memr, readByte_of_romImage ht ha, State.returnByte]

end Sys2Proof.Proofs

namespace Sys2Proof.Proofs

open Sys2Proof.Machine

/-! ## Key events (41_keyboard.md R120, R121) -/

theorem exec_keyDown (row code : Byte) (s : State) : exec (.keyDown row code) s = keyEvent row code s := rfl

/-- A release is the press of the idle byte. -/
theorem exec_keyUp (row : Byte) (s : State) : exec (.keyUp row) s = keyEvent row 0x7F#8 s := rfl

theorem keyEvent_of_lt {row : Byte} {s : State} (hrow : row.toNat < 9) (htick : s.inTick = false) (code : Byte) :
    keyEvent row code s = .next (s.setKeyRow ⟨row.toNat, hrow⟩ code) :=
  (keyEvent_eq_next row code s _).mpr ⟨hrow, htick, rfl⟩

theorem keyEvent_of_ge {row : Byte} (hrow : 9 ≤ row.toNat) (code : Byte) (s : State) :
    keyEvent row code s = .refused .keyRowOutOfRange :=
  dif_neg (Nat.not_lt.mpr hrow)

theorem keyEvent_of_inTick {row : Byte} {s : State} (hrow : row.toNat < 9) (htick : s.inTick = true) (code : Byte) :
    keyEvent row code s = .refused .hostEventInTick := by
  rw [keyEvent, dif_pos hrow, betweenTicks_of_inTick htick]

theorem getElem_setKeyRow (s : State) (row r : Fin 9) (code : Byte) :
    (s.setKeyRow row code).keyRow[r] = if r.val = row.val then code else s.keyRow[r] := by
  simp only [State.setKeyRow_keyRow, Fin.getElem_fin, Vector.getElem_set, eq_comm]

theorem sameBytes_setKeyRow (s : State) (row : Fin 9) (code : Byte) : SameBytes s (s.setKeyRow row code) :=
  State.readByte_congr s _ (State.setKeyRow_rom s row code) (State.setKeyRow_ram s row code)

/-- What both key events do between ticks; they differ in the byte alone. -/
theorem keyEvent_replaces_row {row : Byte} {s : State} (hrow : row.toNat < 9) (htick : s.inTick = false) (code : Byte) :
    ∃ t, keyEvent row code s = .next t ∧ t = { s with keyRow := t.keyRow } ∧
      (∀ r : Fin 9, t.keyRow[r] = if r.val = row.toNat then code else s.keyRow[r]) ∧ SameBytes s t :=
  ⟨_, keyEvent_of_lt hrow htick code, rfl, fun r => getElem_setKeyRow s _ r code, sameBytes_setKeyRow s _ code⟩

/-- Settles O18: a press is a key event with its code. -/
theorem keyDownReplacesItsRow : Obligations.KeyDownReplacesItsRow :=
  fun _ code _ hrow htick => keyEvent_replaces_row hrow htick code

/-- Settles O19: a release is a key event with the idle byte. -/
theorem keyUpIdlesItsRow : Obligations.KeyUpIdlesItsRow :=
  fun _ _ hrow htick => keyEvent_replaces_row hrow htick 0x7F#8

/-- Settles O20: the two preconditions of a key event, the row's tested first (R120). -/
theorem keyEventsAreRefusedOutOfRangeOrInsideATick : Obligations.KeyEventsAreRefusedOutOfRangeOrInsideATick := by
  intro row code s
  constructor
  · intro hrow
    exact ⟨keyEvent_of_ge hrow code s, keyEvent_of_ge hrow 0x7F#8 s⟩
  · intro hrow htick
    exact ⟨keyEvent_of_inTick hrow htick code, keyEvent_of_inTick hrow htick 0x7F#8⟩

/-! ## Sequences of instructions -/

/-- A sequence whose first instruction completes goes on from the state that instruction leaves. -/
theorem execAll_cons_of_next {i : Instr} {s t : State} (h : exec i s = .next t) (rest : List Instr) :
    execAll (i :: rest) s = execAll rest t := by
  simp only [execAll, h]

theorem execAll_singleton (i : Instr) (s : State) : execAll [i] s = exec i s := by
  simp only [execAll]
  cases exec i s <;> rfl

/-! ## Key events to one row (41_keyboard.md R122) -/

theorem setKeyRow_setKeyRow (s : State) (row : Fin 9) (c c' : Byte) :
    (s.setKeyRow row c).setKeyRow row c' = s.setKeyRow row c' := by
  simp [State.setKeyRow]

/-- The second of two key events to one row overwrites the whole byte the first wrote. -/
theorem execAll_keyEvents {i j : Instr} {row c c' : Byte} (hi : ∀ s, exec i s = keyEvent row c s)
    (hj : ∀ s, exec j s = keyEvent row c' s) {s : State} (hrow : row.toNat < 9) (htick : s.inTick = false) :
    execAll [i, j] s = exec j s := by
  have hfirst : exec i s = .next (s.setKeyRow ⟨row.toNat, hrow⟩ c) := (hi s).trans (keyEvent_of_lt hrow htick c)
  rw [execAll_cons_of_next hfirst, execAll_singleton, hj, hj, keyEvent_of_lt hrow htick,
    keyEvent_of_lt hrow (by simpa using htick), setKeyRow_setKeyRow]

/-- Settles O22: each of the four pairs is two key events to one row. -/
theorem keyEventsToOneRowCollapse : Obligations.KeyEventsToOneRowCollapse := by
  intro row c c' s hrow htick
  exact ⟨execAll_keyEvents (exec_keyDown row c) (exec_keyDown row c') hrow htick,
    execAll_keyEvents (exec_keyUp row) (exec_keyDown row c') hrow htick,
    execAll_keyEvents (exec_keyDown row c) (exec_keyUp row) hrow htick,
    execAll_keyEvents (exec_keyUp row) (exec_keyUp row) hrow htick⟩

/-! ## The strobe and the key read (41_keyboard.md R123, R124) -/

theorem exec_iorKbd (s : State) : exec .iorKbd s = .next (s.returnByte s.selectedRow) := rfl

theorem exec_iowCath (v : Byte) (s : State) : exec (.iowCath v) s = .next { s with cathode := cathodeOf v } := rfl

/-- Settles O16: the byte returned is the selected row's, and a return writes no memory. -/
theorem iorKbdReturnsTheSelectedRow : Obligations.IorKbdReturnsTheSelectedRow :=
  fun s => ⟨_, exec_iorKbd s, rfl, sameBytes_returnByte s _⟩

/-- The select byte's low four bits, complemented (30_encoding.md R76). -/
theorem toNat_cathodeOf (v : Byte) : (cathodeOf v).toNat = 15 - v.toNat % 16 := by
  have hv : v.toNat < 256 := v.isLt
  simp only [cathodeOf, BitVec.extractLsb'_toNat, BitVec.toNat_not, Nat.shiftRight_zero]
  omega

/-- Settles O17: the select byte's encoding, and `cathode` is not part of the memory map. -/
theorem iowCathSelectsTheComplement : Obligations.IowCathSelectsTheComplement := by
  intro v s
  exact ⟨_, exec_iowCath v s, rfl, toNat_cathodeOf v, State.readByte_congr s _ rfl rfl⟩

/-- The key read when row `r` is selected and holds `code`. -/
theorem exec_iorKbd_of_cathode {s : State} {r : Fin 9} {code : Byte} (hr : s.cathode.toNat = r.val)
    (hcode : s.keyRow[r] = code) : exec .iorKbd s = .next (s.returnByte code) := by
  have hselected : s.selectedRow = s.keyRow[r] := by simp [State.selectedRow, hr]
  rw [exec_iorKbd, hselected, hcode]

/-! ## The keyboard round trip (41_keyboard.md R126) -/

theorem toNat_rowByte (r : Fin 9) : (BitVec.ofNat 8 r).toNat = r.val := by
  rw [BitVec.toNat_ofNat, Nat.mod_eq_of_lt (by omega)]

/-- The canonical select byte of row `r` selects it (R76). -/
theorem toNat_cathodeOf_selectByte (r : Fin 9) : (cathodeOf (0xFF#8 - BitVec.ofNat 8 r)).toNat = r.val := by
  have hr : r.val < 9 := r.isLt
  rw [toNat_cathodeOf, BitVec.toNat_sub, toNat_rowByte, BitVec.toNat_ofNat]
  omega

theorem keyEvent_rowByte {s : State} (htick : s.inTick = false) (r : Fin 9) (code : Byte) :
    keyEvent (BitVec.ofNat 8 r) code s = .next (s.setKeyRow r code) :=
  (keyEvent_eq_next _ code s _).mpr
    ⟨by rw [toNat_rowByte]; exact r.isLt, htick, by simp only [toNat_rowByte]⟩

theorem getElem_setKeyRow_same (s : State) (r : Fin 9) (code : Byte) : (s.setKeyRow r code).keyRow[r] = code := by
  rw [getElem_setKeyRow, if_pos rfl]

/-- A press, then its row selected and read; the row stays selected and no tick begins. -/
theorem execAll_keyDown_scan {s : State} (htick : s.inTick = false) (r : Fin 9) (code : Byte) :
    ∃ t, execAll [.keyDown (BitVec.ofNat 8 r) code, .iowCath (0xFF#8 - BitVec.ofNat 8 r), .iorKbd] s = .next t ∧
      t.returned = s.returned ++ [.byte code] ∧ t.cathode.toNat = r.val ∧ t.inTick = false := by
  have hdown : exec (.keyDown (BitVec.ofNat 8 r) code) s = .next (s.setKeyRow r code) := keyEvent_rowByte htick r code
  rw [execAll_cons_of_next hdown, execAll_cons_of_next (exec_iowCath _ _), execAll_singleton]
  exact ⟨_, exec_iorKbd_of_cathode (toNat_cathodeOf_selectByte r) (getElem_setKeyRow_same s r code), rfl,
    toNat_cathodeOf_selectByte r, htick⟩

/-- A release in the selected row, then the row read. -/
theorem execAll_keyUp_read {s : State} (htick : s.inTick = false) {r : Fin 9} (hr : s.cathode.toNat = r.val) :
    ∃ t, execAll [.keyUp (BitVec.ofNat 8 r), .iorKbd] s = .next t ∧ t.returned = s.returned ++ [.byte 0x7F#8] := by
  have hup : exec (.keyUp (BitVec.ofNat 8 r)) s = .next (s.setKeyRow r 0x7F#8) := keyEvent_rowByte htick r 0x7F#8
  rw [execAll_cons_of_next hup, execAll_singleton]
  exact ⟨_, exec_iorKbd_of_cathode hr (getElem_setKeyRow_same s r 0x7F#8), rfl⟩

/-- Settles O21: the press leaves its row selected, so the release is read there too. -/
theorem keyboardRoundTrip : Obligations.KeyboardRoundTrip := by
  intro r code s htick
  obtain ⟨t, hpress, hread, hr, ht⟩ := execAll_keyDown_scan htick r code
  obtain ⟨u, hrelease, hidle⟩ := execAll_keyUp_read ht hr
  exact ⟨t, u, hpress, hread, hrelease, hidle⟩

end Sys2Proof.Proofs

namespace Sys2Proof.Proofs

open Sys2Proof.Machine

/-! ## The segment byte (30_encoding.md R77) -/

theorem segPattern_eq_setWidth (v : Byte) : segPattern v = v.setWidth 7 :=
  (BitVec.setWidth_eq_extractLsb' (by decide)).symm

/-- The byte's low seven bits are the blank pattern, told by the mask. -/
theorem setWidth_eq_blank_iff (v : Byte) : v.setWidth 7 = Config.blank ↔ v &&& 0x7F#8 = 0x7F#8 := by
  have hmask : (v &&& 0x7F#8).toNat = v.toNat % 2 ^ 7 := by
    rw [BitVec.toNat_and]
    exact Nat.and_two_pow_sub_one_eq_mod v.toNat 7
  rw [← BitVec.toNat_inj, ← BitVec.toNat_inj, BitVec.toNat_setWidth, hmask]
  rfl

/-- Segment `k` of the byte's pattern. -/
theorem segLit_setWidth (v : Byte) (k : Fin 7) : segLit (v.setWidth 7) k = !v.getLsbD k.val := by
  simp [segLit]

/-! ## The refresh of one digit (42_display.md R140) -/

theorem digits_refreshDigit_same (s : State) (d : Fin 9) (p : BitVec 7) :
    (s.refreshDigit d p).digits[d] = s.digits[d].refreshed p := by
  simp [State.refreshDigit_eq]

theorem decay_refreshDigit (s : State) (d : Fin 9) (p : BitVec 7) : (s.refreshDigit d p).digits[d].decay = 50 := by
  rw [digits_refreshDigit_same, Digit.refreshed]

theorem lastSeen_refreshDigit (s : State) (d : Fin 9) (p : BitVec 7) : (s.refreshDigit d p).digits[d].lastSeen = p := by
  rw [digits_refreshDigit_same, Digit.refreshed]

theorem digits_refreshDigit_of_ne (s : State) {d j : Fin 9} (hj : j ≠ d) (p : BitVec 7) :
    (s.refreshDigit d p).digits[j] = s.digits[j] := by
  simp [State.refreshDigit_eq, Fin.val_inj, Ne.symm hj]

theorem segTrace_refreshDigit (s : State) (d : Fin 9) (p : BitVec 7) :
    (s.refreshDigit d p).segTrace = s.segTrace ++ if p = s.digits[d].lastSeen then [] else paintEvents d p := by
  rw [State.refreshDigit_eq]
  simp only [ne_eq, ite_not]

/-- A refresh writes the digits and the trace alone. -/
theorem refreshDigit_frame (s : State) (d : Fin 9) (p : BitVec 7) :
    s.refreshDigit d p =
      { s with digits := (s.refreshDigit d p).digits, segTrace := (s.refreshDigit d p).segTrace } := by
  rw [State.refreshDigit_eq]

theorem cathode_refreshDigit (s : State) (d : Fin 9) (p : BitVec 7) : (s.refreshDigit d p).cathode = s.cathode := by
  rw [refreshDigit_frame]

theorem sameBytes_refreshDigit (s : State) (d : Fin 9) (p : BitVec 7) : SameBytes s (s.refreshDigit d p) :=
  State.readByte_congr s _ (by rw [refreshDigit_frame]) (by rw [refreshDigit_frame])

/-- The segments after a refresh with the byte's pattern: as they were when it is the pattern last painted, else the
pattern's. -/
theorem segs_refreshed_setWidth (g : Digit) (v : Byte) (k : Fin 7) :
    (g.refreshed (v.setWidth 7)).segs[k] = if v.setWidth 7 = g.lastSeen then g.segs[k] else !v.getLsbD k.val := by
  by_cases h : v.setWidth 7 = g.lastSeen
  · simp [Digit.refreshed, h]
  · simp [Digit.refreshed, h]

theorem paintEvents_setWidth (d : Fin 9) (v : Byte) :
    paintEvents d (v.setWidth 7) = allSegs.map fun k => ⟨d, k, !v.getLsbD k.val⟩ := by
  simp only [paintEvents, segLit_setWidth]

/-! ## IOW_SEG (42_display.md R140, R143) -/

theorem exec_iowSeg (v : Byte) (s : State) : exec (.iowSeg v) s = .next (s.setDigit v) := rfl

theorem exec_iowSeg_of_blank {v : Byte} (hv : v &&& 0x7F#8 = 0x7F#8) (s : State) : exec (.iowSeg v) s = .next s := by
  have hblank : segPattern v = Config.blank := by rwa [segPattern_eq_setWidth, setWidth_eq_blank_iff]
  rw [exec_iowSeg, State.setDigit, if_pos hblank]

/-- A lit pattern goes to the digit `cathode` selects, when there is one. -/
theorem setDigit_of_lit {v : Byte} (hv : v &&& 0x7F#8 ≠ 0x7F#8) (s : State) :
    s.setDigit v =
      if h : s.cathode.toNat < 9 then s.refreshDigit ⟨s.cathode.toNat, h⟩ (v.setWidth 7) else s := by
  have hlit : v.setWidth 7 ≠ Config.blank := fun h => hv ((setWidth_eq_blank_iff v).mp h)
  rw [State.setDigit, segPattern_eq_setWidth, if_neg hlit]

theorem exec_iowSeg_of_cathode {v : Byte} (hv : v &&& 0x7F#8 ≠ 0x7F#8) {s : State} {d : Fin 9}
    (hd : s.cathode.toNat = d.val) : exec (.iowSeg v) s = .next (s.refreshDigit d (v.setWidth 7)) := by
  simp only [exec_iowSeg, setDigit_of_lit hv, hd, d.isLt, dite_true]

theorem exec_iowSeg_of_no_digit {v : Byte} (hv : v &&& 0x7F#8 ≠ 0x7F#8) {s : State} (hs : 9 ≤ s.cathode.toNat) :
    exec (.iowSeg v) s = .next s := by
  rw [exec_iowSeg, setDigit_of_lit hv, dif_neg (Nat.not_lt.mpr hs)]

/-- Settles O23: the blank pattern is tested before the digit is looked for. -/
theorem blankWriteChangesNothing : Obligations.BlankWriteChangesNothing :=
  fun _ s hv => exec_iowSeg_of_blank hv s

/-- Settles O24: a write to a selected digit is a refresh of it, and `cathode` 9..15 selects none. -/
theorem iowSegRefreshesTheSelectedDigit : Obligations.IowSegRefreshesTheSelectedDigit := by
  intro v s hv
  refine ⟨fun d hd => ?_, exec_iowSeg_of_no_digit hv⟩
  refine ⟨_, exec_iowSeg_of_cathode hv hd, refreshDigit_frame s d _, decay_refreshDigit s d _,
    lastSeen_refreshDigit s d _, fun k => ?_, fun j hj => digits_refreshDigit_of_ne s hj _, ?_,
    sameBytes_refreshDigit s d _⟩
  · rw [digits_refreshDigit_same, segs_refreshed_setWidth]
  · rw [segTrace_refreshDigit, paintEvents_setWidth]; rfl

/-! ## The same pattern twice (42_display.md R144) -/

theorem segTrace_refreshDigit_again (s : State) (d : Fin 9) (p : BitVec 7) :
    ((s.refreshDigit d p).refreshDigit d p).segTrace = (s.refreshDigit d p).segTrace := by
  rw [segTrace_refreshDigit _ d p, if_pos (lastSeen_refreshDigit s d p).symm, List.append_nil]

theorem length_segTrace_refreshDigit (s : State) (d : Fin 9) (p : BitVec 7) :
    (s.refreshDigit d p).segTrace.length = s.segTrace.length + if s.digits[d].lastSeen = p then 0 else 7 := by
  have hseven : (paintEvents d p).length = 7 := rfl
  rw [segTrace_refreshDigit, List.length_append, apply_ite List.length, hseven]
  simp only [List.length_nil, eq_comm (a := p)]

/-- Settles O25: the first write leaves its pattern as the one last painted, so the second finds nothing to paint. -/
theorem repeatedPatternPaintsOnce : Obligations.RepeatedPatternPaintsOnce := by
  intro v s d hv hd
  have hd' : (s.refreshDigit d (v.setWidth 7)).cathode.toNat = d.val := by rwa [cathode_refreshDigit]
  exact ⟨_, _, exec_iowSeg_of_cathode hv hd, exec_iowSeg_of_cathode hv hd', decay_refreshDigit s d _,
    decay_refreshDigit _ d _, segTrace_refreshDigit_again s d _, length_segTrace_refreshDigit s d _⟩

/-! ## The aging pass (42_display.md R141) -/

theorem digits_agePass (s : State) (d : Fin 9) : s.agePass.digits[d] = s.digits[d].aged := by
  simp [State.agePass_eq]

theorem allDigits_eq_finRange : allDigits = List.finRange 9 := by decide

/-- Painting the blank pattern turns the seven segments off. -/
theorem paintEvents_blank (d : Fin 9) :
    paintEvents d Config.blank = (List.finRange 7).map fun k => ⟨d, k, false⟩ := by
  revert d; decide

theorem flatMap_ite_nil {α β : Type} (p : α → Prop) [DecidablePred p] (f : α → List β) (l : List α) :
    (l.flatMap fun a => if p a then f a else []) = (l.filter fun a => p a).flatMap f := by
  induction l with
  | nil => rfl
  | cons a l ih =>
    by_cases h : p a
    · simp [h, ih]
    · simp [h, ih]

/-- What a pass sends: the off events of the digits at their last count, ascending. -/
theorem segTrace_agePass (s : State) :
    s.agePass.segTrace = s.segTrace ++ ((List.finRange 9).filter fun d => s.digits[d].decay = 1).flatMap
      fun d => (List.finRange 7).map fun k => ⟨d, k, false⟩ := by
  rw [State.agePass_eq]
  simp only [Digit.agingEvents, flatMap_ite_nil, paintEvents_blank, allDigits_eq_finRange]

/-- Settles O26: `Digit.aged` is the rule's three cases, and a pass writes the digits and the trace alone. -/
theorem agingPassCountsDownAndBlanks : Obligations.AgingPassCountsDownAndBlanks := by
  intro s
  refine ⟨fun d => ?_, segTrace_agePass s, ?_⟩
  · rw [digits_agePass]; rfl
  · rw [State.agePass_eq]

/-! ## How long a digit stays lit (42_display.md R145) -/

/-- The digits age independently of each other, one count a pass. -/
theorem digits_agePasses (n : Nat) (s : State) (d : Fin 9) :
    (agePasses n s).digits[d] = Digit.aged^[n] s.digits[d] := by
  induction n generalizing s with
  | zero => rfl
  | succ n ih => rw [agePasses, ih, digits_agePass, Function.iterate_succ_apply]

theorem aged_of_one_lt {g : Digit} (h : 1 < g.decay) : g.aged = { g with decay := g.decay - 1 } := by
  rw [Digit.aged, if_neg (by omega), if_neg (by omega)]

theorem aged_of_decay_eq_one {g : Digit} (h : g.decay = 1) : g.aged = darkDigit := by
  rw [Digit.aged, if_neg (by omega), if_pos h]

/-- Fewer passes than its decay leave a digit lit. -/
theorem aged_iterate_of_lt {n : Nat} {g : Digit} (h : n < g.decay) :
    Digit.aged^[n] g = { g with decay := g.decay - n } := by
  induction n with
  | zero => rfl
  | succ n ih =>
    have hlit : 1 < g.decay - n := by omega
    rw [Function.iterate_succ_apply', ih (by omega), aged_of_one_lt hlit, Nat.sub_sub]

/-- The pass that uses up its decay blanks a digit. -/
theorem aged_iterate_of_decay_eq_succ {n : Nat} {g : Digit} (h : g.decay = n + 1) :
    Digit.aged^[n + 1] g = darkDigit := by
  rw [Function.iterate_succ_apply', aged_iterate_of_lt (by omega), aged_of_decay_eq_one (by simp [h])]

/-- Settles O27: a refresh loads a decay of 50, which the passes use up one by one. -/
theorem fiftyPassesBlankADigitAndFortyNineDoNot : Obligations.FiftyPassesBlankADigitAndFortyNineDoNot := by
  intro v s d hv hd
  have hdecay := decay_refreshDigit s d (v.setWidth 7)
  refine ⟨_, exec_iowSeg_of_cathode hv hd, ?_, lastSeen_refreshDigit s d _, ?_⟩
  · rw [digits_agePasses, aged_iterate_of_lt (by omega), hdecay]
  · rw [digits_agePasses, aged_iterate_of_decay_eq_succ hdecay, darkDigit]

end Sys2Proof.Proofs

namespace Sys2Proof.Proofs

open Sys2Proof.Machine

/-! ## Saves (43_block_store.md R164, R166) -/

theorem getElem_readRange (m : Memory) (start n i : Nat) (h : i < (m.readRange start n).length) :
    (m.readRange start n)[i] = m.read (start + i) := by
  simp [Memory.readRange]

theorem save_of_overflow {start n : Nat} (h : 8192 < start + n) (s : State) (id : Byte) :
    s.save id start n = (.err .addressRange, s) := by
  obtain ⟨_, e⟩ | ⟨hfit, _⟩ | ⟨hfit, _⟩ := s.save_cases id start n
  · exact e
  all_goals omega

theorem save_of_fits {start n : Nat} (h : start + n ≤ 8192) (s : State) (id : Byte) :
    s.save id start n =
      (if s.storeFails then .err .ioError else .ok,
        s.afterStoreWrite (Config.blockName id) (s.ram.readRange start n)) := by
  obtain ⟨hover, _⟩ | ⟨_, hfails, e⟩ | ⟨_, hfails, e⟩ := s.save_cases id start n
  · omega
  all_goals simp [e, hfails]

/-- Settles O35: a range over the window is the first case of a save. -/
theorem saveOverTheWindowIsARangeError : Obligations.SaveOverTheWindowIsARangeError :=
  ⟨fun s => save_of_overflow (by decide) s _, fun s id _ _ h => save_of_overflow h s id⟩

theorem exec_iowSave (v : Byte) (s : State) : exec (.iowSave v) s = execIowSave v s := rfl

/-- The save trigger is the save of the cells' block, then the redirection by its result. -/
theorem exec_iowSave_of_save {s t : State} {r : BlockResult}
    (h : s.save s.blockParams.id s.blockParams.start s.blockParams.length = (r, t)) (v : Byte) :
    exec (.iowSave v) s = .next (t.redirect r) := by
  rw [exec_iowSave, execIowSave, h]

/-- The range a save trigger names ends with the page of the start-high cell, so that cell alone decides whether it fits. -/
theorem blockParams_end (s : State) :
    s.blockParams.start + s.blockParams.length = ((s.ram.read 0x1FF9).toNat + 1) * 256 :=
  blockStart_add_blockLength _ _

/-- Settles O32: the named range ends beyond the window. -/
theorem iowSaveOutOfRangeTouchesNothing : Obligations.IowSaveOutOfRangeTouchesNothing := by
  intro v s hhi
  have hover : 8192 < s.blockParams.start + s.blockParams.length := by
    rw [blockParams_end]
    omega
  exact exec_iowSave_of_save (save_of_overflow hover s _) v

/-- Settles O31: the named range fits, so the save is one store write of its bytes; the store's law gives the objects. -/
theorem iowSaveStoresTheRange : Obligations.IowSaveStoresTheRange := by
  intro v s hhi
  have hfit : s.blockParams.start + s.blockParams.length ≤ 8192 := by
    rw [blockParams_end]
    omega
  refine ⟨_, s.ram.readRange s.blockParams.start s.blockParams.length, exec_iowSave_of_save (save_of_fits hfit s _) v,
    ?_, getElem_readRange s.ram _ _, ?_, ?_, ?_, State.readByte_congr s _ rfl rfl⟩
  · rw [Memory.length_readRange]
    exact blockLength_eq_sub _
  · cases hfails : s.storeFails <;> rfl
  · exact (Store.get_put _ _ _ _).trans (if_pos rfl)
  · exact fun name hname => (Store.get_put _ _ _ _).trans (if_neg hname)

/-! ## Loads (43_block_store.md R165, R167) -/

theorem load_of_lookup_fails {s : State} (hfails : s.storeFails = true) (id : Byte) (start : Nat) :
    s.load id start = (.err .ioError, s.callStore (.lookup (Config.blockName id))) := by
  obtain ⟨_, e⟩ | ⟨hok, _⟩ | ⟨_, hok, _⟩ | ⟨_, hok, _⟩ := s.load_cases id start
  · exact e
  all_goals simp [hfails] at hok

/-- A load whose lookup answers an object that fits is the copy of that object. -/
theorem load_of_fits {s : State} {id : Byte} {start : Nat} {obj : List Byte} (hok : s.storeFails = false)
    (hobj : s.store.get (Config.blockName id) = some obj) (hfit : start + obj.length ≤ 8192) :
    s.load id start =
      (s.callStore (.lookup (Config.blockName id))).loadCopy (Config.blockName id) start obj.length := by
  obtain ⟨hfails, _⟩ | ⟨_, hnone, _⟩ | ⟨obj', _, hobj', hover, _⟩ | ⟨obj', _, hobj', _, e⟩ := s.load_cases id start
  · simp [hok] at hfails
  · simp [hobj] at hnone
  all_goals obtain rfl : obj = obj' := Option.some.inj (hobj.symm.trans hobj')
  · omega
  · exact e

theorem callStore_callStore (s : State) (c c' : StoreCall) :
    (s.callStore c).callStore c' = { s with storeCalls := s.storeCalls ++ [c, c'], draws := s.draws + 2 } := by
  simp [State.callStore]

section ObjectThatFits

variable {s : State} {id : Byte} {start : Nat} {obj : List Byte} (hok : s.storeFails = false)
  (hobj : s.store.get (Config.blockName id) = some obj) (hfit : start + obj.length ≤ 8192)

include hok hobj hfit

/-- The read is a call of its own and can fail after a lookup that did not. -/
theorem load_of_read_fails (hread : (s.callStore (.lookup (Config.blockName id))).storeFails = true) :
    s.load id start =
      (.err .ioError, { s with
        ram := s.ram.writeRange start ({ s with draws := s.draws + 2 }.failedReadBytes obj.length)
        storeCalls := s.storeCalls ++ [.lookup (Config.blockName id), .read (Config.blockName id)]
        draws := s.draws + 2 + obj.length }) := by
  rw [load_of_fits hok hobj hfit]
  obtain ⟨_, e⟩ | ⟨bytes, hbytes, _⟩ :=
    (s.callStore (.lookup (Config.blockName id))).loadCopy_cases (Config.blockName id) start obj.length
  · rw [e, callStore_callStore]
    rfl
  · simp [State.readResult, hread] at hbytes

theorem load_of_read_answers (hread : (s.callStore (.lookup (Config.blockName id))).storeFails = false) :
    s.load id start =
      (.okBytes obj.length, { s with
        ram := s.ram.writeRange start obj
        storeCalls := s.storeCalls ++ [.lookup (Config.blockName id), .read (Config.blockName id)]
        draws := s.draws + 2 }) := by
  rw [load_of_fits hok hobj hfit]
  obtain ⟨hnone, _⟩ | ⟨bytes, hbytes, e⟩ :=
    (s.callStore (.lookup (Config.blockName id))).loadCopy_cases (Config.blockName id) start obj.length
  · simp [State.readResult, hread, hobj] at hnone
  · obtain rfl : obj = bytes := by simpa [State.readResult, hread, hobj] using hbytes
    rw [e, callStore_callStore]
    rfl

end ObjectThatFits

/-- What a RAM read gives after a failed store read: a draw in the target range (D42). -/
theorem read_writeRange_failedReadBytes (m : Memory) (s : State) (start n o : Nat) :
    (m.writeRange start (s.failedReadBytes n)).read o =
      if start ≤ o ∧ o < start + n then Config.ramAfterFailedRead (s.draws + (o - start)) else m.read o := by
  simp [Memory.read_writeRange, State.failedReadBytes]

/-- Settles O36: with no object, a load ends at its lookup. -/
theorem loadOfAnAbsentObjectIsNotFound : Obligations.LoadOfAnAbsentObjectIsNotFound := by
  intro s id start hnone
  obtain ⟨hfails, e⟩ | ⟨hok, _, e⟩ | ⟨obj, _, hobj, _⟩ | ⟨obj, _, hobj, _⟩ := s.load_cases id start
  · simp [e, hfails]
  · simp [e, hok]
  all_goals simp [hnone] at hobj

theorem exec_iowLoad (v : Byte) (s : State) : exec (.iowLoad v) s = execIowLoad v s := rfl

/-- The load trigger is the load of the cells' block, then the redirection by its result. -/
theorem exec_iowLoad_of_load {s t : State} {r : BlockResult}
    (h : s.load s.blockParams.id s.blockParams.start = (r, t)) (v : Byte) :
    exec (.iowLoad v) s = .next (t.redirect r) := by
  rw [exec_iowLoad, execIowLoad, h]

/-- Settles O33: a case per answer of the lookup, and for an object that fits one per answer of the read. -/
theorem iowLoadCopiesTheObjectOrGoesToTheErrorVector : Obligations.IowLoadCopiesTheObjectOrGoesToTheErrorVector := by
  intro v s
  obtain ⟨hfails, e⟩ | ⟨hok, hobj, e⟩ | ⟨obj, hok, hobj, hover, e⟩ | ⟨obj, hok, hobj, hfit, _⟩ :=
    s.load_cases (s.ram.read 0x1FFA) ((s.ram.read 0x1FF9).toNat * 256 + (s.ram.read 0x1FF8).toNat)
  · refine ⟨_, exec_iowLoad_of_load e v, ?_⟩
    simp only [hfails, if_true]
    rfl
  · refine ⟨_, exec_iowLoad_of_load e v, ?_⟩
    simp only [hok, hobj, Bool.false_eq_true, if_false]
    rfl
  · refine ⟨_, exec_iowLoad_of_load e v, ?_⟩
    simp only [hok, hobj, hover, Bool.false_eq_true, if_false, if_true]
    rfl
  · have hfit' := Nat.not_lt.mpr hfit
    cases hread : (s.callStore (.lookup (Config.blockName (s.ram.read 0x1FFA)))).storeFails
    case true =>
      refine ⟨_, exec_iowLoad_of_load (load_of_read_fails hok hobj hfit hread) v, ?_⟩
      simp only [hok, hobj, hfit', Bool.false_eq_true, if_false]
      exact (if_pos hread).mpr ⟨rfl, read_writeRange_failedReadBytes s.ram _ _ _⟩
    case false =>
      refine ⟨_, exec_iowLoad_of_load (load_of_read_answers hok hobj hfit hread) v, ?_⟩
      simp only [hok, hobj, hfit', Bool.false_eq_true, if_false]
      exact (if_neg (ne_true_of_eq_false hread)).mpr ⟨rfl, Memory.read_writeRange s.ram _ obj⟩

/-! ## Round trip and the unavailable store (43_block_store.md R168, R171) -/

/-- The start's low byte is the low cell itself. -/
theorem low_eq_zero_of_blockStart_eq {lo hi : Byte} (h : blockStart lo hi = 0x1000) : lo = 0#8 := by
  have hlo : lo.toNat < 256 := lo.isLt
  have hzero : lo.toNat = 0 := by
    rw [blockStart] at h
    omega
  exact BitVec.eq_of_toNat_eq hzero

/-- A range copied into any RAM at its own start reads there as in the RAM it was taken from. -/
theorem read_writeRange_readRange (m m' : Memory) {start n o : Nat} (hlo : start ≤ o) (hhi : o < start + n) :
    (m'.writeRange start (m.readRange start n)).read o = m.read o := by
  rw [Memory.read_writeRange, dif_pos (by rw [Memory.length_readRange]; exact ⟨hlo, hhi⟩), getElem_readRange,
    Nat.add_sub_cancel' hlo]

/-- What a save whose store write succeeds leaves in the store. -/
theorem get_store_of_save {s : State} {start n : Nat} (hfit : start + n ≤ 8192) (hok : s.storeFails = false)
    (id : Byte) :
    (s.save id start n).2.store.get (Config.blockName id) = some (s.ram.readRange start n) := by
  simp [save_of_fits hfit, Store.get_put, hok]

/-- Settles O34: the object is the saved range, and copying it back to its own start restores it. -/
theorem saveThenLoadRestoresTheBytes : Obligations.SaveThenLoadRestoresTheBytes := by
  refine ⟨fun s u id start n hfit hstore => ?_, fun lo hi h => ?_⟩
  case refine_2 =>
    obtain rfl := low_eq_zero_of_blockStart_eq h
    exact ⟨rfl, by decide⟩
  cases hsave : s.storeFails
  case true => simp [save_of_fits hfit, hsave]
  have hobj : u.store.get (Config.blockName id) = some (s.ram.readRange start n) := by
    rw [hstore, get_store_of_save hfit hsave]
  refine ⟨by simp [save_of_fits hfit, hsave], ?_⟩
  cases hlookup : u.storeFails
  case true => simp [load_of_lookup_fails hlookup]
  have hobjfit : start + (s.ram.readRange start n).length ≤ 8192 := by rwa [Memory.length_readRange]
  cases hread : (u.callStore (.lookup (Config.blockName id))).storeFails
  case true => simp [load_of_read_fails hlookup hobj hobjfit hread]
  rw [load_of_read_answers hlookup hobj hobjfit hread, Memory.length_readRange]
  exact ⟨rfl, fun o hlo hhi => read_writeRange_readRange s.ram u.ram hlo hhi⟩

theorem storeFails_of_unavailable {s : State} (h : s.storeAvailable = false) : s.storeFails = true := by
  simp [State.storeFails, h]

/-- Settles O37: no store call succeeds, and neither a save nor a load that ends at its lookup writes RAM. -/
theorem unavailableStoreGoesToTheErrorVector : Obligations.UnavailableStoreGoesToTheErrorVector := by
  intro v s h
  have hfails := storeFails_of_unavailable h
  constructor
  · obtain ⟨_, e⟩ | ⟨_, _, e⟩ | ⟨_, hok, _⟩ :=
      s.save_cases s.blockParams.id s.blockParams.start s.blockParams.length
    · exact ⟨_, exec_iowSave_of_save e v, State.readByte_congr s _ rfl rfl, rfl⟩
    · exact ⟨_, exec_iowSave_of_save e v, State.readByte_congr s _ rfl rfl, rfl⟩
    · simp [hfails] at hok
  · exact ⟨_, exec_iowLoad_of_load (load_of_lookup_fails hfails _ _) v, State.readByte_congr s _ rfl rfl, rfl⟩

end Sys2Proof.Proofs

namespace Sys2Proof.Proofs

open Sys2Proof.Machine

/-! ## The expander's operations, with the chip absent and present (44_expansion.md R190 to R197) -/

theorem expIn_of_absent {s : State} (h : s.expPresent = false) (p : ExpPort) :
    s.expIn p = { s with returned := s.returned ++ [.byte 0xFF#8] } := by
  rw [State.expIn, if_neg (ne_true_of_eq_false h)]
  rfl

theorem expIn_of_present {s : State} (h : s.expPresent = true) (p : ExpPort) :
    s.expIn p = { s with
      returned := s.returned ++ [.byte (Config.expInput s.draws)]
      expCalls := s.expCalls ++ [.read p], draws := s.draws + 1 } := by
  rw [State.expIn, if_pos h]
  rfl

theorem expOut_of_absent {s : State} (h : s.expPresent = false) (p : ExpPort) (v : Byte) : s.expOut p v = s :=
  if_neg (ne_true_of_eq_false h)

theorem expOut_of_present {s : State} (h : s.expPresent = true) (p : ExpPort) (v : Byte) :
    s.expOut p v = { s with expCalls := s.expCalls ++ [.write p v] } :=
  if_pos h

theorem expControl_of_absent {s : State} (h : s.expPresent = false) (v : Byte) : s.expControl v = s := by
  simp [State.expControl, h]

/-- A control word without the active bit is ignored whether or not the chip is there (R79). -/
theorem expControl_of_inactive {v : Byte} (hv : ctlActive v = false) (s : State) : s.expControl v = s := by
  simp [State.expControl, hv]

theorem expControl_of_active {s : State} (h : s.expPresent = true) {v : Byte} (hv : ctlActive v = true) :
    s.expControl v = { s with
      expDirA := ctlDir v 4
      expDirB := ctlDir v 1
      expCalls := s.expCalls ++ [.setDir .a (ctlDir v 4), .setDir .b (ctlDir v 1)] } := by
  simp [State.expControl, h, hv]

/-! ## The expansion port's five transactions -/

theorem exec_iorExpa (s : State) : exec .iorExpa s = .next (s.expIn .a) := rfl

theorem exec_iorExpb (s : State) : exec .iorExpb s = .next (s.expIn .b) := rfl

theorem exec_iowExpa (v : Byte) (s : State) : exec (.iowExpa v) s = .next (s.expOut .a v) := rfl

theorem exec_iowExpb (v : Byte) (s : State) : exec (.iowExpb v) s = .next (s.expOut .b v) := rfl

theorem exec_iowExpctl (v : Byte) (s : State) : exec (.iowExpctl v) s = .next (s.expControl v) := rfl

/-- Settles O39: absence is a branch of each expander operation, so it holds of both ports alike (R196, R197). -/
theorem absentExpanderFloatsAndDropsWrites : Obligations.AbsentExpanderFloatsAndDropsWrites := by
  intro v s habsent
  refine ⟨?_, ?_, ?_, ?_, ?_⟩
  · rw [exec_iorExpa, expIn_of_absent habsent]
  · rw [exec_iorExpb, expIn_of_absent habsent]
  · rw [exec_iowExpa, expOut_of_absent habsent]
  · rw [exec_iowExpb, expOut_of_absent habsent]
  · rw [exec_iowExpctl, expControl_of_absent habsent]

/-- Settles O40: neither a read nor a write looks at the port's direction (R190 to R193, R195). -/
theorem presentExpanderIsReadAndWritten : Obligations.PresentExpanderIsReadAndWritten := by
  intro v s hpresent
  refine ⟨?_, ?_, ?_, ?_⟩
  · rw [exec_iorExpa, expIn_of_present hpresent]
  · rw [exec_iorExpb, expIn_of_present hpresent]
  · rw [exec_iowExpa, expOut_of_present hpresent]
  · rw [exec_iowExpb, expOut_of_present hpresent]

/-- Settles O41: `ctlActive` is bit 7 of the word, and `ctlDir` at bits 4 and 1 gives the two directions (R79). -/
theorem controlWordSetsBothDirections : Obligations.ControlWordSetsBothDirections := by
  intro v s hpresent
  refine ⟨fun hclear => ?_, fun hset => ?_⟩
  · rw [exec_iowExpctl, expControl_of_inactive hclear]
  · rw [exec_iowExpctl, expControl_of_active hpresent hset]
    rfl

end Sys2Proof.Proofs

namespace Sys2Proof.Proofs

open Sys2Proof.Machine

/-! ## The row a word is decoded by (30_encoding.md R74, R75) -/

/-- Rows of one priority never overlap, so the first row found is the only one that claims the word. -/
theorem findRow_of_covers {r : Row} {w : TxWord} (hr : r ∈ opcodeTable) (hcovers : r.covers w = true) :
    findRow r.priority w = some r := by
  cases hfound : findRow r.priority w with
  | none => exact absurd hcovers ((findRow_eq_none_iff r.priority w).mp hfound r hr rfl)
  | some q =>
    have hq : q ∈ opcodeTable := List.mem_of_find?_eq_some hfound
    obtain ⟨hpriority, hqw⟩ : q.priority = r.priority ∧ q.covers w = true := by
      simpa using List.find?_some hfound
    by_contra hne
    have := priorityDisjoint_symm
    have hdisjoint : PriorityDisjoint q r :=
      opcodeTable_priorityDisjoint.forall hq hr fun h => hne (congrArg some h)
    exact hdisjoint hpriority (pat_and_mask_eq_of_covers hqw hcovers)

theorem decode_of_covers {r : Row} {w : TxWord} (hr : r ∈ opcodeTable) (hpriority : r.priority = 1)
    (hcovers : r.covers w = true) : decode w = .ok (r.build w) := by
  have hfound : findRow 1 w = some r := hpriority ▸ findRow_of_covers hr hcovers
  simp [decode, hfound]

theorem decode_of_covers_catchAll {r : Row} {w : TxWord} (hr : r ∈ opcodeTable) (hpriority : r.priority = 0)
    (hcovers : r.covers w = true) (hnone : findRow 1 w = none) : decode w = .ok (r.build w) := by
  have hfound : findRow 0 w = some r := hpriority ▸ findRow_of_covers hr hcovers
  simp [decode, hnone, hfound]

/-! ## The port map (45_iobus_scheduler.md R210) -/

theorem mem_opcodeTable_of_portRows {r : Row} (hr : r ∈ portRows) : r ∈ opcodeTable := by
  simp [opcodeTable, hr]

/-- The row is the port map's entry for port `p` of class `c`. -/
structure IsPortRow (r : Row) (c : BitVec 4) (p : Port) : Prop where
  priority : r.priority = 1
  mask : r.mask = maskPort
  pat : r.pat = (c ++ 0#4) ++ (0#8 ++ (p ++ 0#16) : BitVec 32)

/-- A word for a mapped port is decoded by the port's row. -/
theorem decode_of_portRow {w : TxWord} {c : BitVec 4} {p : Port} (hcls : w.cls = c) (hsub : w.sub = 0#4)
    (hport : w.port = p) {n : Nat} (hn : n < portRows.length) (hrow : IsPortRow portRows[n] c p) :
    decode w = .ok (portRows[n].build w) := by
  refine decode_of_covers (mem_opcodeTable_of_portRows (List.getElem_mem hn)) hrow.priority ?_
  rw [covers_iff, hrow.mask]
  exact (w.and_maskPort_eq_iff _ _ _ _ hrow.pat).mpr ⟨hcls, hsub, hport⟩

theorem port_eq_of_covers {r : Row} {w : TxWord} (hmask : r.mask = maskPort) (h : r.covers w = true) :
    w.port = r.pat.port := by
  have hw : w &&& maskPort = r.pat := hmask ▸ (covers_iff r w).mp h
  have hpat : w &&& maskPort = r.pat &&& maskPort := by rw [← hw, BitVec.and_assoc, BitVec.and_self]
  have hself := (r.pat.and_maskPort_eq_iff _ _ _ _ rfl).mpr ⟨rfl, rfl, rfl⟩
  obtain ⟨_, _, hport⟩ := (w.and_maskPort_eq_iff _ _ _ _ rfl).mp (hpat.trans hself)
  exact hport

/-- The rows of priority 1 for class `c` are those of `ports`. -/
def PortsOfClass (c : BitVec 4) (ports : List Port) : Prop :=
  ∀ r ∈ opcodeTable, r.priority = 1 → r.pat.cls = c → r.mask = maskPort ∧ r.pat.port ∈ ports

theorem portsOfClass_read : PortsOfClass 4#4 readPorts := by
  unfold PortsOfClass
  decide

theorem portsOfClass_write : PortsOfClass 5#4 writePorts := by
  unfold PortsOfClass
  decide

theorem findRow_one_of_unmapped {w : TxWord} {c : BitVec 4} {ports : List Port} (hports : PortsOfClass c ports)
    (hcls : w.cls = c) (hport : w.port ∉ ports) : findRow 1 w = none := by
  rw [findRow_eq_none_iff]
  intro r hr hpriority hcovers
  obtain ⟨hheader, _⟩ := opcodeTable_headers r hr
  obtain ⟨hclass, _⟩ := header_eq_of_covers hheader hcovers
  obtain ⟨hmask, hmem⟩ := hports r hr hpriority (hclass.symm.trans hcls)
  exact hport (port_eq_of_covers hmask hcovers ▸ hmem)

/-- A word for an unmapped port is decoded by the catch-all row of its class. -/
theorem decode_of_unmapped {w : TxWord} {c : BitVec 4} {ports : List Port} (hports : PortsOfClass c ports)
    (hcls : w.cls = c) (hsub : w.sub = 0#4) (hport : w.port ∉ ports) {n : Nat} (hn : n < portRows.length)
    (hpriority : portRows[n].priority = 0) (hmask : portRows[n].mask = maskClass)
    (hpat : portRows[n].pat = (c ++ 0#4) ++ 0#32) : decode w = .ok (portRows[n].build w) := by
  refine decode_of_covers_catchAll (mem_opcodeTable_of_portRows (List.getElem_mem hn)) hpriority ?_
    (findRow_one_of_unmapped hports hcls hport)
  rw [covers_iff, hmask]
  exact (w.and_maskClass_eq_iff _ _ _ hpat).mpr ⟨hcls, hsub⟩

theorem decode_of_portRead {w : TxWord} (hcls : w.cls = 4#4) (hsub : w.sub = 0#4) :
    decode w = .ok
      (if w.port = 0xF4#8 then .iorExpa else if w.port = 0xF5#8 then .iorExpb
       else if w.port = 0xFA#8 then .iorKbd else .iorFloat w.port) := by
  split_ifs with hF4 hF5 hFA
  · exact decode_of_portRow hcls hsub hF4 (n := 5) (by decide) ⟨rfl, rfl, rfl⟩
  · exact decode_of_portRow hcls hsub hF5 (n := 6) (by decide) ⟨rfl, rfl, rfl⟩
  · exact decode_of_portRow hcls hsub hFA (n := 0) (by decide) ⟨rfl, rfl, rfl⟩
  · have hport : w.port ∉ readPorts := by simp [readPorts, hF4, hF5, hFA]
    exact decode_of_unmapped portsOfClass_read hcls hsub hport (n := 10) (by decide) rfl rfl rfl

theorem decode_of_portWrite {w : TxWord} (hcls : w.cls = 5#4) (hsub : w.sub = 0#4) :
    decode w = .ok
      (if w.port = 0xF4#8 then .iowExpa w.byte else if w.port = 0xF5#8 then .iowExpb w.byte
       else if w.port = 0xF7#8 then .iowExpctl w.byte else if w.port = 0xF8#8 then .iowSeg w.byte
       else if w.port = 0xFA#8 then .iowCath w.byte else if w.port = 0x5A#8 then .iowSave w.byte
       else if w.port = 0xAD#8 then .iowLoad w.byte else .iowNop w.port w.byte) := by
  split_ifs with hF4 hF5 hF7 hF8 hFA h5A hAD
  · exact decode_of_portRow hcls hsub hF4 (n := 7) (by decide) ⟨rfl, rfl, rfl⟩
  · exact decode_of_portRow hcls hsub hF5 (n := 8) (by decide) ⟨rfl, rfl, rfl⟩
  · exact decode_of_portRow hcls hsub hF7 (n := 9) (by decide) ⟨rfl, rfl, rfl⟩
  · exact decode_of_portRow hcls hsub hF8 (n := 2) (by decide) ⟨rfl, rfl, rfl⟩
  · exact decode_of_portRow hcls hsub hFA (n := 1) (by decide) ⟨rfl, rfl, rfl⟩
  · exact decode_of_portRow hcls hsub h5A (n := 3) (by decide) ⟨rfl, rfl, rfl⟩
  · exact decode_of_portRow hcls hsub hAD (n := 4) (by decide) ⟨rfl, rfl, rfl⟩
  · have hport : w.port ∉ writePorts := by simp [writePorts, hF4, hF5, hF7, hF8, hFA, h5A, hAD]
    exact decode_of_unmapped portsOfClass_write hcls hsub hport (n := 11) (by decide) rfl rfl rfl

/-- Settles O4: no row compares the ignored bits, and a port without a row of its own is left to the catch-all row. -/
theorem everyPortReachesItsHandler : Obligations.EveryPortReachesItsHandler :=
  fun _ hsub => ⟨fun hcls => decode_of_portRead hcls hsub, fun hcls => decode_of_portWrite hcls hsub⟩

/-! ## The unmapped ports (45_iobus_scheduler.md R211, R212) -/

theorem exec_iorFloat (p : Port) (s : State) : exec (.iorFloat p) s = .next (s.returnByte 0xFF#8) := rfl

theorem exec_iowNop (p : Port) (v : Byte) (s : State) : exec (.iowNop p v) s = .next s := rfl

/-- Settles O42: neither transaction looks at its port or at the state. -/
theorem unmappedPortsFloatAndIgnore : Obligations.UnmappedPortsFloatAndIgnore :=
  fun p v s => ⟨exec_iorFloat p s, exec_iowNop p v s⟩

/-! ## Host events between ticks (45_iobus_scheduler.md R214 to R220) -/

theorem betweenTicks_of_not_inTick {s : State} (h : s.inTick = false) (go : State) : betweenTicks s go = .next go :=
  (betweenTicks_eq_next s go go).mpr ⟨h, rfl⟩

theorem exec_tick (s : State) :
    exec .tick s = betweenTicks s (if s.run = .running then s.beginTick else s) := rfl

theorem exec_runToggle (s : State) :
    exec .runToggle s = betweenTicks s { s with run := if s.run = .running then .stopped else .running } := rfl

theorem exec_runStart (s : State) : exec .runStart s = betweenTicks s { s with run := .running } := rfl

theorem exec_runStop (s : State) : exec .runStop s = betweenTicks s { s with run := .stopped } := rfl

theorem exec_resetCmd (s : State) : exec .resetCmd s = betweenTicks s (s.callCpu .reset) := rfl

theorem exec_intCmd (s : State) :
    exec .intCmd s = betweenTicks s (s.callCpu (.raiseInterrupt Config.intVector)) := rfl

theorem exec_tick_of_stopped {s : State} (htick : s.inTick = false) (hrun : s.run = .stopped) :
    exec .tick s = .next s := by
  rw [exec_tick, betweenTicks_of_not_inTick htick, hrun]
  rfl

theorem exec_tick_of_running {s : State} (htick : s.inTick = false) (hrun : s.run = .running) :
    exec .tick s = .next s.beginTick := by
  rw [exec_tick, betweenTicks_of_not_inTick htick, if_pos hrun]

/-- Settles O43: the run state alone decides whether a tick begins. -/
theorem tickBeginsOnlyWhileRunning : Obligations.TickBeginsOnlyWhileRunning :=
  fun _ htick => ⟨exec_tick_of_stopped htick, exec_tick_of_running htick⟩

/-- Settles O47: the two run states are exchanged by the branch on the run state. -/
theorem runToggleFlipsTheRunState : Obligations.RunToggleFlipsTheRunState := by
  intro s htick
  rw [exec_runToggle, betweenTicks_of_not_inTick htick]
  refine ⟨fun hrun => ?_, fun hrun => ?_⟩ <;> rw [hrun] <;> rfl

/-- Settles O48: a stop of a stopped block writes the value already there. -/
theorem runStopStopsAndIsIdempotent : Obligations.RunStopStopsAndIsIdempotent := by
  intro s htick
  rw [exec_runStop, betweenTicks_of_not_inTick htick]
  refine ⟨rfl, fun hrun => ?_⟩
  rw [← hrun]

/-- Settles O49: a start is accepted between ticks from either run state. -/
theorem runStartRuns : Obligations.RunStartRuns := by
  intro s htick
  rw [exec_runStart, betweenTicks_of_not_inTick htick]

/-- Settles O50: what a reset does to the block is one call recorded. -/
theorem resetCommandOnlyResetsTheCpu : Obligations.ResetCommandOnlyResetsTheCpu := by
  intro s htick
  rw [exec_resetCmd, betweenTicks_of_not_inTick htick]
  rfl

/-- Settles O51: the interrupt is one call recorded, and the run state is not asked for. -/
theorem interruptCommandOnlyCallsTheCpu : Obligations.InterruptCommandOnlyCallsTheCpu := by
  intro s htick
  rw [exec_intCmd, betweenTicks_of_not_inTick htick]
  rfl

end Sys2Proof.Proofs

namespace Sys2Proof.Proofs

open Sys2Proof.Machine

/-! ## The return of a CPU step (45_iobus_scheduler.md R215) -/

/-- The step's equation at a waiting return. -/
theorem step_of_inputs_cpuReturn {s : State} {cost : Nat} {rest : List Input}
    (h : s.inputs = .cpuReturn cost :: rest) : step s = afterInput (cpuReturn cost { s with inputs := rest }) := by
  rw [← popInput_of_inputs_cons h]
  simp [step, h]

theorem cpuReturn_of_inTick {s : State} (h : s.inTick = true) (cost : Nat) :
    cpuReturn cost s = .next (s.stepReturned cost) :=
  (cpuReturn_eq_next cost s _).mpr ⟨h, rfl⟩

theorem cpuReturn_of_not_inTick {s : State} (h : s.inTick = false) (cost : Nat) :
    cpuReturn cost s = .refused .cpuReturnOutsideTick := by
  simp [cpuReturn, h]

theorem step_cpuReturn_of_inTick {s : State} {cost : Nat} {rest : List Input} (h : s.inputs = .cpuReturn cost :: rest)
    (htick : s.inTick = true) : step s = .next (State.stepReturned { s with inputs := rest } cost).markStarted := by
  have hreturn := cpuReturn_of_inTick (s := { s with inputs := rest }) htick cost
  rw [step_of_inputs_cpuReturn h, hreturn, afterInput]

theorem step_cpuReturn_of_not_inTick {s : State} {cost : Nat} {rest : List Input}
    (h : s.inputs = .cpuReturn cost :: rest) (htick : s.inTick = false) :
    step s = .refused .cpuReturnOutsideTick := by
  have hreturn := cpuReturn_of_not_inTick (s := { s with inputs := rest }) htick cost
  rw [step_of_inputs_cpuReturn h, hreturn, afterInput]

theorem step_cpuReturn_of_lt {s : State} {cost : Nat} {rest : List Input} (h : s.inputs = .cpuReturn cost :: rest)
    (htick : s.inTick = true) (hbudget : s.acc + cost < 1100) :
    step s = .next { s with
      inputs := rest, started := true, acc := s.acc + cost, cpuCalls := s.cpuCalls ++ [.step] } := by
  rw [step_cpuReturn_of_inTick h htick]
  obtain ⟨_, hreturned⟩ | ⟨hover, _⟩ := State.stepReturned_cases { s with inputs := rest } cost
  · rw [hreturned]; rfl
  · exact absurd hbudget (Nat.not_lt.mpr hover)

theorem step_cpuReturn_of_le {s : State} {cost : Nat} {rest : List Input} (h : s.inputs = .cpuReturn cost :: rest)
    (htick : s.inTick = true) (hbudget : 1100 ≤ s.acc + cost) :
    step s = .next { s with
      inputs := rest, started := true, acc := s.acc + cost, inTick := false
      digits := s.agePass.digits, segTrace := s.agePass.segTrace } := by
  rw [step_cpuReturn_of_inTick h htick]
  obtain ⟨hunder, _⟩ | ⟨_, hreturned⟩ := State.stepReturned_cases { s with inputs := rest } cost
  · exact absurd hbudget (Nat.not_le.mpr hunder)
  · rw [hreturned, State.agePass_eq, State.agePass_eq]; rfl

/-- Settles O44: inside a tick the return's two branches, on the state without the return; outside a tick it is refused. -/
theorem cpuReturnTestsTheBudget : Obligations.CpuReturnTestsTheBudget :=
  fun _ _ _ h => ⟨step_cpuReturn_of_lt h, step_cpuReturn_of_le h, step_cpuReturn_of_not_inTick h⟩

/-! ## A bus transaction inside a tick (60_exceptions.md R240, R248) -/

/-- Every bus transaction completes, in every state. -/
theorem exec_transaction_next {i : Instr} (hi : isTransaction i = true) (s : State) : ∃ t, exec i s = .next t := by
  cases i with
  | tick | keyDown | keyUp | runToggle | runStart | runStop | resetCmd | intCmd | powerOn => cases hi
  | _ => exact ⟨_, rfl⟩

theorem isTransactionWord_iff (w : TxWord) :
    isTransactionWord w = true ↔ ∃ i, decode w = .ok i ∧ isTransaction i = true := by
  unfold isTransactionWord
  cases decode w <;> simp

/-- The step on a waiting transaction, and what it leaves alone (R33, R213). -/
theorem step_of_transactionWord {s : State} {w : TxWord} {rest : List Input} (h : s.inputs = .word w :: rest)
    (hw : isTransactionWord w = true) :
    ∃ t, step s = .next t ∧ t.run = s.run ∧ t.inTick = s.inTick ∧ t.acc = s.acc ∧ t.inputs = rest ∧
      t.cpuCalls.count .step = s.cpuCalls.count .step := by
  obtain ⟨i, hdecode, hi⟩ := (isTransactionWord_iff w).mp hw
  obtain ⟨u, hexec⟩ := exec_transaction_next hi { s with inputs := rest }
  obtain ⟨hrun, htick, hacc, hinputs, _, hcalls⟩ := exec_transaction_frame i _ u hi hexec
  refine ⟨u.markStarted, ?_, hrun, htick, hacc, hinputs, hcalls⟩
  rw [step_of_inputs_word h, applyWord_of_decode_ok hdecode, hexec]
  rfl

/-! ## Runs -/

theorem run_succ_of_step {M : Host.Core} {s t : M.State} (h : M.step s = .next t) (k : Nat) :
    M.run (k + 1) s = M.run k t := by
  rw [Host.Core.run, h]

/-- The last step of a run, taken apart from the others. -/
theorem run_succ_of_run {M : Host.Core} {k : Nat} {s t u : M.State} (h : M.run k s = .next t)
    (hlast : M.step t = .next u) : M.run (k + 1) s = .next u := by
  induction k generalizing s with
  | zero =>
    obtain rfl : s = t := by simpa [Host.Core.run] using h
    rw [run_succ_of_step hlast, Host.Core.run]
  | succ k ih =>
    rw [Host.Core.run] at h
    cases hfirst : M.step s with
    | next v => rw [hfirst] at h; rw [run_succ_of_step hfirst]; exact ih h
    | fault r => simp [hfirst] at h
    | refused r => simp [hfirst] at h

/-! ## The inputs of a tick (45_iobus_scheduler.md R215) -/

theorem SameDisplay.trans {s t u : State} (hst : SameDisplay s t) (htu : SameDisplay t u) : SameDisplay s u := by
  obtain ⟨hdigits, htrace⟩ := hst
  obtain ⟨hdigits', htrace'⟩ := htu
  exact ⟨hdigits'.trans hdigits, htrace'.trans htrace⟩

/-- What a CPU of constant cost `c` delivers inside a tick: a bus transaction, or the return of its step. -/
def IsTickInput (c : Nat) (x : Input) : Prop :=
  (∃ w, x = .word w ∧ isTransactionWord w = true) ∨ x = .cpuReturn c

/-- What the inputs `xs` of a tick that stays on do between `s` and `t`: each return adds its cost to `acc` and calls one more
step. -/
structure TickGoesOn (c : Nat) (xs : List Input) (s t : State) : Prop where
  inTick : t.inTick = true
  run : t.run = s.run
  acc : t.acc = s.acc + xs.count (.cpuReturn c) * c
  inputs : s.inputs = xs ++ t.inputs
  calls : t.cpuCalls.count .step = s.cpuCalls.count .step + xs.count (.cpuReturn c)
  /-- Returns alone leave the display as it is, and call nothing but steps. -/
  quiet : (∀ x ∈ xs, x = .cpuReturn c) →
    SameDisplay s t ∧ t.cpuCalls = s.cpuCalls ++ List.replicate (xs.count (.cpuReturn c)) .step

theorem tickGoesOn_nil (c : Nat) {s : State} (h : s.inTick = true) : TickGoesOn c [] s s where
  inTick := h
  run := rfl
  acc := by simp
  inputs := rfl
  calls := rfl
  quiet _ := ⟨⟨rfl, rfl⟩, by simp⟩

theorem TickGoesOn.append {c : Nat} {xs ys : List Input} {s t u : State} (hs : TickGoesOn c xs s t)
    (ht : TickGoesOn c ys t u) : TickGoesOn c (xs ++ ys) s u where
  inTick := ht.inTick
  run := ht.run.trans hs.run
  acc := by rw [ht.acc, hs.acc, List.count_append, Nat.add_mul, Nat.add_assoc]
  inputs := by rw [hs.inputs, ht.inputs, List.append_assoc]
  calls := by rw [ht.calls, hs.calls, List.count_append, Nat.add_assoc]
  quiet h := by
    obtain ⟨hdisplay, hcalls⟩ := hs.quiet fun x hx => h x (List.mem_append_left ys hx)
    obtain ⟨hdisplay', hcalls'⟩ := ht.quiet fun x hx => h x (List.mem_append_right xs hx)
    refine ⟨hdisplay.trans hdisplay', ?_⟩
    rw [hcalls', hcalls, List.count_append, List.replicate_add, List.append_assoc]

/-- One input of a tick that stays on: a transaction, or a return that leaves `acc` below the budget. -/
theorem step_tickGoesOn {c : Nat} {x : Input} {rest : List Input} {s : State} (hx : IsTickInput c x)
    (htick : s.inTick = true) (hinputs : s.inputs = x :: rest)
    (hbudget : s.acc + [x].count (.cpuReturn c) * c < 1100) :
    ∃ t, step s = .next t ∧ TickGoesOn c [x] s t ∧ t.inputs = rest := by
  obtain ⟨w, rfl, hw⟩ | rfl := hx
  · obtain ⟨t, hstep, hrun, ht, hacc, hrest, hcalls⟩ := step_of_transactionWord hinputs hw
    refine ⟨t, hstep, ?_, hrest⟩
    exact {
      inTick := ht.trans htick
      run := hrun
      acc := by simp [hacc]
      inputs := by rw [hinputs, hrest]; rfl
      calls := by simp [hcalls]
      quiet := fun h => by simp at h }
  · have hlt : s.acc + c < 1100 := by simpa using hbudget
    refine ⟨_, step_cpuReturn_of_lt hinputs htick hlt, ?_, rfl⟩
    exact {
      inTick := htick
      run := rfl
      acc := by simp
      inputs := hinputs
      calls := by simp
      quiet := fun _ => ⟨⟨rfl, rfl⟩, by simp⟩ }

/-- A tick stays on over inputs whose returns leave `acc` below the budget. -/
theorem run_tickGoesOn {c : Nat} {xs rest : List Input} {s : State} (hxs : ∀ x ∈ xs, IsTickInput c x)
    (htick : s.inTick = true) (hinputs : s.inputs = xs ++ rest)
    (hbudget : s.acc + xs.count (.cpuReturn c) * c < 1100) :
    ∃ t, Sys2Proof.core.run xs.length s = .next t ∧ TickGoesOn c xs s t := by
  induction xs generalizing s with
  | nil => exact ⟨s, rfl, tickGoesOn_nil c htick⟩
  | cons x xs ih =>
    rw [List.forall_mem_cons] at hxs
    obtain ⟨hx, hxs⟩ := hxs
    rw [← List.singleton_append, List.count_append, Nat.add_mul, ← Nat.add_assoc] at hbudget
    obtain ⟨t, hstep, hone, ht⟩ := step_tickGoesOn hx htick hinputs (by omega)
    obtain ⟨u, hrun, hrest⟩ := ih hxs hone.inTick ht (by rwa [hone.acc])
    exact ⟨u, (run_succ_of_step hstep xs.length).trans hrun, hone.append hrest⟩

/-! ## The inputs of whole CPU steps -/

theorem stepsInputs_cons (c : Nat) (ws : List TxWord) (steps : List (List TxWord)) :
    stepsInputs c (ws :: steps) = stepInputs c ws ++ stepsInputs c steps := by
  simp [stepsInputs]

/-- Each CPU step returns once. -/
theorem count_stepsInputs (c : Nat) (steps : List (List TxWord)) :
    (stepsInputs c steps).count (.cpuReturn c) = steps.length := by
  induction steps with
  | nil => rfl
  | cons ws steps ih =>
    have hwords : (ws.map Input.word).count (.cpuReturn c) = 0 := by simp [List.count_eq_zero]
    rw [stepsInputs_cons, List.count_append, ih, stepInputs, List.count_append, hwords, List.length_cons]
    simp [Nat.add_comm]

theorem isTickInput_of_mem_stepsInputs {c : Nat} {steps : List (List TxWord)}
    (hwords : ∀ ws ∈ steps, ∀ w ∈ ws, isTransactionWord w = true) : ∀ x ∈ stepsInputs c steps, IsTickInput c x := by
  intro x hx
  obtain ⟨ws, hws, hx⟩ := List.mem_flatMap.mp hx
  obtain hx | hx := List.mem_append.mp hx
  · obtain ⟨w, hw, rfl⟩ := List.mem_map.mp hx
    exact .inl ⟨w, rfl, hwords ws hws w hw⟩
  · exact .inr (List.mem_singleton.mp hx)

theorem eq_cpuReturn_of_mem_stepsInputs {c : Nat} {steps : List (List TxWord)} (hnone : steps.flatten = []) :
    ∀ x ∈ stepsInputs c steps, x = .cpuReturn c := by
  intro x hx
  obtain ⟨ws, hws, hx⟩ := List.mem_flatMap.mp hx
  obtain rfl : ws = [] := List.flatten_eq_nil_iff.mp hnone ws hws
  exact List.mem_singleton.mp hx

/-- The last input is the last step's return. -/
theorem exists_stepsInputs_eq_concat {c : Nat} {steps : List (List TxWord)} (h : steps ≠ []) :
    ∃ xs, stepsInputs c steps = xs ++ [.cpuReturn c] := by
  obtain ⟨init, last, rfl⟩ := List.eq_nil_or_concat steps |>.resolve_left h
  exact ⟨stepsInputs c init ++ last.map .word, by simp [stepsInputs, stepInputs]⟩

/-- A tick stays on over any first part of inputs whose returns leave `acc` below the budget. -/
theorem run_tickGoesOn_take {c : Nat} {xs rest : List Input} {s : State} (hxs : ∀ x ∈ xs, IsTickInput c x)
    (htick : s.inTick = true) (hinputs : s.inputs = xs ++ rest)
    (hbudget : s.acc + xs.count (.cpuReturn c) * c < 1100) {k : Nat} (hk : k ≤ xs.length) :
    ∃ t, Sys2Proof.core.run k s = .next t ∧ TickGoesOn c (xs.take k) s t := by
  have htake : s.inputs = xs.take k ++ (xs.drop k ++ rest) := by
    rw [← List.append_assoc, List.take_append_drop, hinputs]
  have hcount : (xs.take k).count (.cpuReturn c) * c ≤ xs.count (.cpuReturn c) * c :=
    Nat.mul_le_mul_right c ((List.take_sublist k xs).count_le _)
  have hrun := run_tickGoesOn (fun x hx => hxs x (List.mem_of_mem_take hx)) htick htake (by omega)
  rwa [List.length_take_of_le hk] at hrun

/-- Settles O46: returns of no cost leave `acc` where it is, below the budget. -/
theorem zeroCostTickNeverEnds : Obligations.ZeroCostTickNeverEnds := by
  intro s steps rest htick hacc hwords hinputs
  have hxs := isTickInput_of_mem_stepsInputs (c := 0) hwords
  constructor
  · intro k hk
    obtain ⟨u, hrun, hu⟩ := run_tickGoesOn_take hxs htick hinputs hacc hk
    exact ⟨u, hrun, hu.inTick, hu.acc⟩
  · obtain ⟨t, hrun, ht⟩ := run_tickGoesOn hxs htick hinputs hacc
    have hrest : t.inputs = rest := List.append_cancel_left (ht.inputs.symm.trans hinputs)
    refine ⟨t, hrun, hrest, ?_, fun hnone => ?_⟩
    · rw [ht.calls, count_stepsInputs]
    · obtain ⟨hdisplay, _⟩ := ht.quiet (eq_cpuReturn_of_mem_stepsInputs hnone)
      exact hdisplay

/-! ## The length of a tick of constant cost (45_iobus_scheduler.md R221) -/

/-- `ceil(1100 / c)` is the least number of steps whose cost reaches the budget. -/
theorem budget_le_iff {c n : Nat} (hc : 1 ≤ c) : 1100 ≤ n * c ↔ (1100 + c - 1) / c ≤ n := by
  rw [Nat.div_le_iff_le_mul_add_pred hc, Nat.mul_comm]
  omega

/-- The inputs of `ceil(1100 / c)` steps: the returns before the last stay below the budget, the last reaches it. -/
theorem exists_split_of_length_eq_ceil {c : Nat} {steps : List (List TxWord)} (hc : 1 ≤ c)
    (hlength : steps.length = (1100 + c - 1) / c) :
    ∃ xs, stepsInputs c steps = xs ++ [.cpuReturn c] ∧ xs.count (.cpuReturn c) + 1 = steps.length ∧
      xs.count (.cpuReturn c) * c < 1100 ∧ 1100 ≤ xs.count (.cpuReturn c) * c + c := by
  have hreach : 1100 ≤ steps.length * c := (budget_le_iff hc).mpr hlength.ge
  have hsteps : steps ≠ [] := by
    rintro rfl
    simp at hreach
  obtain ⟨xs, hconcat⟩ := exists_stepsInputs_eq_concat (c := c) hsteps
  have hcount : xs.count (.cpuReturn c) + 1 = steps.length := by
    simpa [count_stepsInputs] using (congrArg (List.count (.cpuReturn c)) hconcat).symm
  refine ⟨xs, hconcat, hcount, ?_, ?_⟩
  · rw [← Nat.not_le, budget_le_iff hc]
    omega
  · rwa [← Nat.succ_mul, Nat.succ_eq_add_one, hcount]

/-- TICK delivered while Running, between ticks: the tick is on with one step called. -/
theorem step_tick_of_running {s : State} {rest : List Input} (h : s.inputs = .word 0x8000000000#40 :: rest)
    (htick : s.inTick = false) (hrun : s.run = .running) :
    ∃ b, step s = .next b ∧ b.inTick = true ∧ b.run = .running ∧ b.acc = 0 ∧ b.inputs = rest ∧
      b.cpuCalls = s.cpuCalls ++ [.step] ∧ SameDisplay s b := by
  have hdecode : decode 0x8000000000#40 = .ok .tick := by decide
  have hexec := exec_tick_of_running (s := { s with inputs := rest }) htick hrun
  refine ⟨(State.beginTick { s with inputs := rest }).markStarted, ?_, rfl, hrun, rfl, rfl, rfl, rfl, rfl⟩
  rw [step_of_inputs_word h, applyWord_of_decode_ok hdecode, hexec, afterInput]

theorem sameDisplay_agePass {s t : State} (h : SameDisplay s t) : SameDisplay s.agePass t.agePass := by
  obtain ⟨hdigits, htrace⟩ := h
  rw [State.agePass_eq, State.agePass_eq]
  simp [SameDisplay, hdigits, htrace]

/-- The run of a tick from its first CPU step: the returns of `xs` stay below the budget, one more return reaches it. -/
theorem run_tick_ends {c : Nat} {xs rest : List Input} {s : State} (hxs : ∀ x ∈ xs, IsTickInput c x)
    (htick : s.inTick = true) (hinputs : s.inputs = xs ++ .cpuReturn c :: rest)
    (hbelow : s.acc + xs.count (.cpuReturn c) * c < 1100)
    (hreach : 1100 ≤ s.acc + xs.count (.cpuReturn c) * c + c) :
    ∃ u t, Sys2Proof.core.run xs.length s = .next u ∧ TickGoesOn c xs s u ∧
      Sys2Proof.core.run (xs.length + 1) s = .next t ∧
      t.inTick = false ∧ t.run = u.run ∧ t.inputs = rest ∧ t.acc = u.acc + c ∧ t.cpuCalls = u.cpuCalls ∧
      SameDisplay u.agePass t := by
  obtain ⟨u, hrun, hu⟩ := run_tickGoesOn hxs htick hinputs hbelow
  have hlast : u.inputs = .cpuReturn c :: rest := List.append_cancel_left (hu.inputs.symm.trans hinputs)
  have hreturn := step_cpuReturn_of_le hlast hu.inTick (by rwa [hu.acc])
  refine ⟨u, _, hrun, hu, run_succ_of_run hrun hreturn, rfl, rfl, rfl, rfl, rfl, ?_⟩
  simp only [SameDisplay, and_self]

/-- Settles O45: the last of the returns is the first to reach the budget, so it alone ends the tick. -/
theorem constantCostTickRunsTheCeilingOfTheBudget : Obligations.ConstantCostTickRunsTheCeilingOfTheBudget := by
  refine ⟨rfl, fun s c steps rest hc htick hrunning hlength hwords hinputs => ?_⟩
  obtain ⟨xs, hconcat, hcount, hbelow, hreach⟩ := exists_split_of_length_eq_ceil hc hlength
  have hxs : ∀ x ∈ xs, IsTickInput c x := fun x hx =>
    isTickInput_of_mem_stepsInputs hwords x (by simp [hconcat, hx])
  have hlen : (stepsInputs c steps).length = xs.length + 1 := by simp [hconcat]
  rw [hlen]
  obtain ⟨b, hfirst, hb, hbrun, hacc, hbinputs, hbcalls, hbdisplay⟩ := step_tick_of_running hinputs htick hrunning
  rw [hconcat, List.append_assoc, List.singleton_append] at hbinputs
  rw [← Nat.zero_add (xs.count _ * c), ← hacc] at hbelow hreach
  constructor
  · intro k hk hkle
    obtain ⟨j, rfl⟩ := Nat.exists_eq_add_of_le' hk
    obtain ⟨u, hrun, hu⟩ := run_tickGoesOn_take hxs hb hbinputs hbelow (Nat.le_of_succ_le_succ hkle)
    exact ⟨u, (run_succ_of_step hfirst j).trans hrun, hu.inTick, hu.run.trans hbrun⟩
  · obtain ⟨u, t, hrunu, hu, hrunt, ht, htrun, hrest, htacc, htcalls, hpass⟩ :=
      run_tick_ends hxs hb hbinputs hbelow hreach
    have htsteps : t.cpuCalls.count .step = s.cpuCalls.count .step + steps.length := by
      rw [htcalls, hu.calls, hbcalls, List.count_append, List.count_singleton_self, ← hcount]
      omega
    have hacct : t.acc = steps.length * c := by
      rw [htacc, hu.acc, hacc, ← hcount, Nat.zero_add, Nat.succ_mul]
    obtain ⟨hdigits, htrace⟩ := hpass
    refine ⟨u, t, (run_succ_of_step hfirst _).trans hrunu, (run_succ_of_step hfirst _).trans hrunt, ht,
      htrun.trans (hu.run.trans hbrun), hrest, hacct, htsteps, hdigits, htrace, fun hnone => ?_⟩
    have hreturns : ∀ x ∈ xs, x = .cpuReturn c := fun x hx =>
      eq_cpuReturn_of_mem_stepsInputs hnone x (by simp [hconcat, hx])
    obtain ⟨hdisplay, hcalls⟩ := hu.quiet hreturns
    obtain ⟨hdigits', htrace'⟩ := sameDisplay_agePass (hbdisplay.trans hdisplay)
    refine ⟨hdigits.trans hdigits', htrace.trans htrace', ?_⟩
    rw [htcalls, hcalls, hbcalls, ← hcount, List.replicate_succ, List.append_assoc, List.singleton_append]

end Sys2Proof.Proofs

namespace Sys2Proof.Proofs

open Sys2Proof.Machine

/-! ## The run state is the run commands' own (60_exceptions.md R249) -/

/-- Once the run has begun, an instruction that changes the run state is a run command, and a start or a stop leaves the state
it names: the effect that sets `run` says both. -/
theorem exec_run_cases {i : Instr} {s t : State} (hstarted : s.started = true) (h : exec i s = .next t)
    (hrun : t.run ≠ s.run) :
    i = .runToggle ∨ i = .runStart ∧ t.run = .running ∨ i = .runStop ∧ t.run = .stopped := by
  cases exec_effect i s t h with
  | runState _ _ _ hi => exact hi
  | power hs => simp [hstarted] at hs
  | refresh => exact absurd (by rw [State.refreshDigit_eq]) hrun
  | _ => exact absurd rfl hrun

/-- A CPU step's return leaves the run state alone, whether the tick goes on or ends (R214, R215). -/
theorem stepReturned_run (s : State) (cost : Nat) : (s.stepReturned cost).run = s.run := by
  obtain ⟨_, hreturned⟩ | ⟨_, hreturned⟩ := s.stepReturned_cases cost <;> rw [hreturned]
  rw [State.agePass_eq]

/-- Settles O53: of what a step can do, only an applied instruction writes `run`. -/
theorem onlyRunCommandsChangeTheRunState : Obligations.OnlyRunCommandsChangeTheRunState := by
  intro s t hstarted h hrun
  obtain ⟨_, rfl⟩ | ⟨w, rest, i, u, hnext, hdecode, hexec, rfl⟩ | ⟨cost, rest, _, _, rfl⟩ := step_next_cases s t h
  case inl => exact absurd rfl hrun
  case inr.inl =>
    have hcommand := exec_run_cases (s := s.popInput) hstarted hexec hrun
    exact ⟨w, rest, hnext, by simpa [hdecode] using hcommand⟩
  case inr.inr => exact absurd (stepReturned_run s.popInput cost) hrun

/-! ## Every bus transaction completes (60_exceptions.md R240) -/

/-- What is no host event is a bus transaction (00_scope.md R16). -/
theorem isTransaction_of_not_hostEvent {i : Instr}
    (hhost : i ∉ [Instr.tick, .runToggle, .runStart, .runStop, .resetCmd, .intCmd, .powerOn])
    (hdown : ∀ row code, i ≠ .keyDown row code) (hup : ∀ row, i ≠ .keyUp row) : isTransaction i = true := by
  cases i with
  | tick | runToggle | runStart | runStop | resetCmd | intCmd | powerOn => simp at hhost
  | keyDown row code => exact absurd rfl (hdown row code)
  | keyUp row => exact absurd rfl (hup row)
  | _ => rfl

/-- Settles O8: there is no fault to raise, and what is no host event is a transaction, which has a next state. -/
theorem noFaultAndEveryTransactionCompletes : Obligations.NoFaultAndEveryTransactionCompletes :=
  ⟨fun _ r => (nomatch r), fun s _ hhost hdown hup =>
    exec_transaction_next (isTransaction_of_not_hostEvent hhost hdown hup) s⟩

/-! ## Vector redirection (60_exceptions.md R245) -/

theorem redirect_eq (s : State) (r : BlockResult) :
    s.redirect r = { s with cpuCalls := s.cpuCalls ++ [.setProgramCounter (redirectTarget r)] } := rfl

/-- Code 0 is left to success (R241). -/
theorem errorKind_code_ne_zero (e : ErrorKind) : e.code ≠ 0 := by
  cases e <;> decide

/-- The CPU goes on at VEC_OK for the results of code 0 and at VEC_ERR for the others (R168, R241). -/
theorem redirectTarget_eq_ite_code (r : BlockResult) :
    redirectTarget r = if r.code = 0 then Config.vecOk else Config.vecErr := by
  cases r with
  | ok | okBytes => rfl
  | err e => exact (if_neg (errorKind_code_ne_zero e)).symm

/-- Settles O38: the target is the only thing in a redirection that depends on the result. -/
theorem redirectionOnlySetsTheProgramCounter : Obligations.RedirectionOnlySetsTheProgramCounter := by
  intro s n e
  refine ⟨redirect_eq s .ok, redirect_eq s (.okBytes n), redirect_eq s (.err e), fun r => ?_⟩
  rw [redirect_eq, redirectTarget_eq_ite_code]

end Sys2Proof.Proofs

namespace Sys2Proof.Proofs

open Sys2Proof.Machine

/-! ## Decode of encode (30_encoding.md R70 to R75) -/

/-- Every instruction's word is one of a row that reads the instruction back. -/
theorem encodedRow (i : Instr) : Laws.EncodedRow.Statement i := by
  cases i with
  | memr a => exact Laws.EncodedRow.memr a
  | memw a v => exact Laws.EncodedRow.memw a v
  | memr16 a => exact Laws.EncodedRow.memr16 a
  | memw16 a w => exact Laws.EncodedRow.memw16 a w
  | iorKbd => exact Laws.EncodedRow.iorKbd
  | iowCath v => exact Laws.EncodedRow.iowCath v
  | iowSeg v => exact Laws.EncodedRow.iowSeg v
  | iowSave v => exact Laws.EncodedRow.iowSave v
  | iowLoad v => exact Laws.EncodedRow.iowLoad v
  | iorExpa => exact Laws.EncodedRow.iorExpa
  | iorExpb => exact Laws.EncodedRow.iorExpb
  | iowExpa v => exact Laws.EncodedRow.iowExpa v
  | iowExpb v => exact Laws.EncodedRow.iowExpb v
  | iowExpctl v => exact Laws.EncodedRow.iowExpctl v
  | iorFloat p => exact Laws.EncodedRow.iorFloat p
  | iowNop p v => exact Laws.EncodedRow.iowNop p v
  | tick => exact Laws.EncodedRow.tick
  | keyDown row code => exact Laws.EncodedRow.keyDown row code
  | keyUp row => exact Laws.EncodedRow.keyUp row
  | runToggle => exact Laws.EncodedRow.runToggle
  | runStart => exact Laws.EncodedRow.runStart
  | runStop => exact Laws.EncodedRow.runStop
  | resetCmd => exact Laws.EncodedRow.resetCmd
  | intCmd => exact Laws.EncodedRow.intCmd
  | powerOn => exact Laws.EncodedRow.powerOn

/-- The rows of priority 0 build the two unmapped-port transactions, and nothing else. -/
theorem build_of_catchAll :
    ∀ r ∈ opcodeTable, r.priority = 0 → ∀ w, r.build w = .iorFloat w.port ∨ r.build w = .iowNop w.port w.byte := by
  simp [opcodeTable, memoryRows, portRows, hostRows]

/-- The word of a well-formed unmapped-port transaction belongs to no port's own row: this is where well-formedness counts. -/
theorem findRow_one_encode_of_unmapped {i : Instr} (hwf : i.wf = true)
    (hi : (∃ p, i = .iorFloat p) ∨ ∃ p v, i = .iowNop p v) : findRow 1 (encode i) = none := by
  obtain ⟨p, rfl⟩ | ⟨p, v, rfl⟩ := hi
  · exact findRow_one_of_unmapped portsOfClass_read (by simp [encode, packIo])
      (by simpa [Instr.wf, encode, packIo] using hwf)
  · exact findRow_one_of_unmapped portsOfClass_write (by simp [encode, packIo])
      (by simpa [Instr.wf, encode, packIo] using hwf)

/-- Settles O1: the row that reads the instruction back is the one the decoder finds, at once when it has priority 1, and as a
catch-all row because the ports' own rows miss the word. -/
theorem decodeOfEncodeIsTheInstruction : Obligations.DecodeOfEncodeIsTheInstruction := by
  intro i hwf
  obtain ⟨r, hr, hcovers, hbuild⟩ := encodedRow i
  obtain hpriority | hpriority := opcodeTable_priority r hr
  · rw [decode_of_covers hr hpriority hcovers, hbuild]
  · have hunmapped : (∃ p, i = .iorFloat p) ∨ ∃ p v, i = .iowNop p v := by
      rw [← hbuild]
      exact (build_of_catchAll r hr hpriority _).imp (fun h => ⟨_, h⟩) fun h => ⟨_, _, h⟩
    have hnone := findRow_one_encode_of_unmapped hwf hunmapped
    rw [decode_of_covers_catchAll hr hpriority hcovers hnone, hbuild]

/-- Settles O5: the decoder evaluated at the fourteen words, one of them with ignored bits set and two no transactions. -/
theorem testVectorWordsDecode : Obligations.TestVectorWordsDecode := by
  unfold Obligations.TestVectorWordsDecode
  decide

/-! ## The power-on values (10_state.md section 9) -/

theorem clearTrace_eq_finRange :
    clearTrace = (List.finRange 9).flatMap fun d => (List.finRange 7).map fun k => ⟨d, k, false⟩ := by decide

theorem reset_keyRow (r : Fin 9) : State.reset.keyRow[r] = 0x7F#8 := by simp [State.reset]

theorem reset_digits (d : Fin 9) : State.reset.digits[d] = darkDigit := by simp [State.reset]

/-- A store with no entries holds STORE_INIT's object under every name (R34). -/
theorem get_nil_store (id : Byte) :
    Store.get [] (Config.blockName id) = Config.storeInit (Config.blockName id) := by
  simp [Store.get, Sparse.read, storeDefault, Config.blockName]

/-- Settles O57: the image has ROM_SIZE bytes by its definition, and ROM_SIZE its bounds (R8); the other values stand in
State.reset. -/
theorem resetHoldsThePowerOnValues : Obligations.ResetHoldsThePowerOnValues := by
  have hlength : Config.romImage.length = Config.romSize := by simp [Config.romImage]
  refine ⟨rfl, hlength, Nat.succ_pos _, Config.romSizePred.isLt, reset_keyRow, fun d => ?_, clearTrace_eq_finRange,
    rfl, rfl, rfl, rfl, rfl, rfl, rfl, get_nil_store⟩
  rw [reset_digits]
  exact ⟨rfl, rfl, by decide⟩

/-! ## POWER_ON (70_reset_and_hazards.md R270) -/

theorem exec_powerOn_of_started {s : State} (h : s.started = true) :
    exec .powerOn s = .refused .powerOnNotFirst :=
  if_pos h

theorem exec_powerOn_of_not_started {s : State} (h : s.started = false) : exec .powerOn s = .next s.powerOn :=
  if_neg (ne_true_of_eq_false h)

/-- Settles O55: what POWER_ON leaves is the reset state, but for the store, the draws taken and what waits. -/
theorem powerOnSetsThePowerOnState : Obligations.PowerOnSetsThePowerOnState := by
  refine fun s => ⟨exec_powerOn_of_started, fun hfirst => ⟨_, exec_powerOn_of_not_started hfirst, ?_⟩⟩
  rw [State.powerOn_eq]
  exact ⟨rfl, fun _ => rfl, rfl, reset_keyRow, reset_digits, clearTrace_eq_finRange, rfl, rfl, rfl, rfl, rfl, rfl, rfl,
    rfl, rfl, rfl, rfl, rfl, rfl, rfl, hfirst⟩

/-- A step that applies an input leaves `started` set, whatever the input is. -/
theorem started_of_step {s t : State} (hinputs : s.inputs ≠ []) (h : step s = .next t) : t.started = true := by
  obtain ⟨hnil, _⟩ | ⟨w, rest, i, u, _, _, _, rfl⟩ | ⟨cost, rest, _, _, rfl⟩ := step_next_cases s t h
  · exact absurd hnil hinputs
  · exact u.markStarted_started
  · exact State.markStarted_started _

/-- Settles O56: the applied input has set what POWER_ON tests. -/
theorem powerOnHasNoStepAfterAnyInput : Obligations.PowerOnHasNoStepAfterAnyInput :=
  fun _ _ hinputs h => exec_powerOn_of_started (started_of_step hinputs h)

/-! ## The invariant: what every step keeps of memory, run and expander -/

/-- The induction step of an invariant that reads neither the queue nor `started`: what every instruction and every CPU-step
return keeps, every step keeps. -/
theorem step_keeps_of_exec {P : State → Prop} (hpop : ∀ s, P s → P s.popInput) (hmark : ∀ s, P s → P s.markStarted)
    (hexec : ∀ {i s t}, P s → exec i s = .next t → P t)
    (hreturn : ∀ {s} cost, s.inTick = true → P s → P (s.stepReturned cost)) {s t : State} (hs : P s)
    (h : step s = .next t) : P t := by
  obtain ⟨_, rfl⟩ | ⟨w, rest, i, u, _, _, hu, rfl⟩ | ⟨cost, rest, _, htick, rfl⟩ := step_next_cases s t h
  · exact hs
  · exact hmark u (hexec (hpop s hs) hu)
  · exact hmark _ (hreturn cost htick (hpop s hs))

/-- A CPU step's return writes the clock, the display and the CPU's calls alone (R214, R215). -/
theorem stepReturned_frame (s : State) (cost : Nat) :
    s.stepReturned cost = { s with
      acc := (s.stepReturned cost).acc
      inTick := (s.stepReturned cost).inTick
      digits := (s.stepReturned cost).digits
      segTrace := (s.stepReturned cost).segTrace
      cpuCalls := (s.stepReturned cost).cpuCalls } := by
  obtain ⟨_, hreturned⟩ | ⟨_, hreturned⟩ := s.stepReturned_cases cost <;> rw [hreturned]
  rw [State.agePass_eq]

/-- RAM and the store are written only by writes that keep their canonical form; power-on empties RAM and keeps the store. -/
theorem exec_keeps_canonical {i : Instr} {s t : State} (hs : s.Canonical) (h : exec i s = .next t) : t.Canonical := by
  obtain ⟨hram, hstore⟩ := hs
  cases exec_effect i s t h with
  | memory _ _ _ hm => exact ⟨hm hram, hstore⟩
  | save _ _ _ _ _ hst => exact ⟨hram, hst hstore⟩
  | load _ _ _ _ _ hm => exact ⟨hm hram, hstore⟩
  | refresh => rw [refreshDigit_frame]; exact ⟨hram, hstore⟩
  | power => rw [State.powerOn_eq]; exact ⟨rfl, hstore⟩
  | _ => exact ⟨hram, hstore⟩

theorem step_keeps_canonical {s t : State} (hs : s.Canonical) (h : step s = .next t) : t.Canonical :=
  step_keeps_of_exec (fun _ h => h) (fun _ h => h) exec_keeps_canonical
    (fun {s} cost _ hs => by rw [stepReturned_frame]; exact hs) hs h

/-- No instruction but POWER_ON writes what power-on fixes, and POWER_ON writes the parameters again. -/
theorem exec_keeps_fixedForRun {i : Instr} {s t : State} (hs : s.FixedForRun) (h : exec i s = .next t) :
    t.FixedForRun := by
  cases exec_effect i s t h with
  | refresh => rw [refreshDigit_frame]; exact hs
  | power => rw [State.powerOn_eq]; exact ⟨rfl, rfl, rfl⟩
  | _ => exact hs

theorem step_keeps_fixedForRun {s t : State} (hs : s.FixedForRun) (h : step s = .next t) : t.FixedForRun :=
  step_keeps_of_exec (fun _ h => h) (fun _ h => h) exec_keeps_fixedForRun
    (fun {s} cost _ hs => by rw [stepReturned_frame]; exact hs) hs h

/-- A tick begins only while Running and with `acc` 0, and the run state changes only between ticks. -/
theorem exec_keeps_tickSound {i : Instr} {s t : State} (hs : s.TickSound) (h : exec i s = .next t) : t.TickSound := by
  cases exec_effect i s t h with
  | tickBegins hrunning => exact fun _ => ⟨hrunning, by simp⟩
  | runState _ _ hbetween => exact fun htick => absurd htick (ne_true_of_eq_false hbetween)
  | refresh => rw [refreshDigit_frame]; exact hs
  | power => rw [State.powerOn_eq]; exact nofun
  | _ => exact hs

/-- A return below the budget leaves the tick on below it; any other ends the tick. -/
theorem stepReturned_keeps_tickSound {s : State} (cost : Nat) (htick : s.inTick = true) (hs : s.TickSound) :
    (s.stepReturned cost).TickSound := by
  obtain ⟨hrunning, _⟩ := hs htick
  obtain ⟨hbelow, hreturned⟩ | ⟨_, hreturned⟩ := s.stepReturned_cases cost <;> rw [hreturned]
  · exact fun _ => ⟨hrunning, hbelow⟩
  · exact nofun

theorem step_keeps_tickSound {s t : State} (hs : s.TickSound) (h : step s = .next t) : t.TickSound :=
  step_keeps_of_exec (fun _ h => h) (fun _ h => h) exec_keeps_tickSound stepReturned_keeps_tickSound hs h

/-- Only a present expander is called or directed; power-on clears the calls and sets both directions IN. -/
theorem exec_keeps_absentExpanderUntouched {i : Instr} {s t : State} (hs : s.AbsentExpanderUntouched)
    (h : exec i s = .next t) : t.AbsentExpanderUntouched := by
  cases exec_effect i s t h with
  | expander _ _ _ _ hpresent => exact fun habsent => absurd hpresent (ne_true_of_eq_false habsent)
  | directions _ _ _ _ hpresent => exact fun habsent => absurd hpresent (ne_true_of_eq_false habsent)
  | refresh => rw [refreshDigit_frame]; exact hs
  | power => rw [State.powerOn_eq]; exact fun _ => ⟨rfl, rfl, rfl⟩
  | _ => exact hs

theorem step_keeps_absentExpanderUntouched {s t : State} (hs : s.AbsentExpanderUntouched) (h : step s = .next t) :
    t.AbsentExpanderUntouched :=
  step_keeps_of_exec (fun _ h => h) (fun _ h => h) exec_keeps_absentExpanderUntouched
    (fun {s} cost _ hs => by rw [stepReturned_frame]; exact hs) hs h

/-- Settles O58: the memories are empty, the display's two parts are the reset lemmas, no tick is on and no call is made. -/
theorem resetMeetsTheInvariant : Obligations.ResetMeetsTheInvariant where
  canonical := ⟨rfl, rfl⟩
  fixed := ⟨rfl, rfl, rfl⟩
  display := reset_displayConsistent
  renderer := reset_rendererAgrees
  tick := nofun
  expander := fun _ => ⟨rfl, rfl, rfl⟩

/-- Settles O59: each part of the invariant is kept by itself. -/
theorem stepKeepsTheInvariant : Obligations.StepKeepsTheInvariant := fun s t hs h => {
  canonical := step_keeps_canonical hs.canonical h
  fixed := step_keeps_fixedForRun hs.fixed h
  display := stepKeepsTheDisplayConsistent s t hs.display h
  renderer := stepKeepsTheRendererInAgreement s t hs.renderer h
  tick := step_keeps_tickSound hs.tick h
  expander := step_keeps_absentExpanderUntouched hs.expander h }

end Sys2Proof.Proofs
